-- ==== Sys2Proof/Word.lean ====
section
/-! DEFINITION. The bit vectors of the machine: bytes, words, and the fields of an instruction word. -/

namespace Sys2Proof

/-- A byte: a memory cell, a general register, a timer (R20, R31). -/
abbrev Byte := BitVec 8

/-- A 16-bit word: an instruction word, PC, I, a stack slot (R20, R80). -/
abbrev Word := BitVec 16

/-- A register number, the `x` or `y` field of a word (R81). -/
abbrev RegIx := BitVec 4

/-- A key number, 0..15 (R29, R246). -/
abbrev KeyIx := BitVec 4

/-- A 12-bit address field `nnn` (R81). -/
abbrev Addr := BitVec 12

/-- A 4-bit immediate `n` (R81). -/
abbrev Nibble := BitVec 4

/-- The number of VF, the flag register (R22). -/
abbrev vfIx : RegIx := 0xF#4

end Sys2Proof
end

