-- ==== Sys2Proof/Syntax.lean ====
section
/-! DEFINITION. The instructions: one constructor per row of spec/opcode_table.json, in the table's order. -/

namespace Sys2Proof

/-- The 34 instructions (R80). The comment on each is its pattern and the rule that gives its meaning. -/
inductive Instr where
  /-- 00E0 (R190) -/
  | cls
  /-- 00EE (R121) -/
  | ret
  /-- 1nnn (R122) -/
  | jp (nnn : Addr)
  /-- 2nnn (R123) -/
  | call (nnn : Addr)
  /-- 3xnn (R124) -/
  | seImm (x : RegIx) (nn : Byte)
  /-- 4xnn (R125) -/
  | sneImm (x : RegIx) (nn : Byte)
  /-- 5xy0 (R126) -/
  | seReg (x y : RegIx)
  /-- 6xnn (R141) -/
  | ldImm (x : RegIx) (nn : Byte)
  /-- 7xnn (R142) -/
  | addImm (x : RegIx) (nn : Byte)
  /-- 8xy0 (R143) -/
  | ldReg (x y : RegIx)
  /-- 8xy1 (R144) -/
  | orReg (x y : RegIx)
  /-- 8xy2 (R145) -/
  | andReg (x y : RegIx)
  /-- 8xy3 (R146) -/
  | xorReg (x y : RegIx)
  /-- 8xy4 (R148) -/
  | addReg (x y : RegIx)
  /-- 8xy5 (R149) -/
  | sub (x y : RegIx)
  /-- 8xy6 (R151) -/
  | shr (x y : RegIx)
  /-- 8xy7 (R152) -/
  | subn (x y : RegIx)
  /-- 8xyE (R153) -/
  | shl (x y : RegIx)
  /-- 9xy0 (R127) -/
  | sneReg (x y : RegIx)
  /-- Annn (R171) -/
  | ldI (nnn : Addr)
  /-- Bnnn (R128); the register of JumpQuirk is nnn[11:8] and no field of its own (R83). -/
  | jpV0 (nnn : Addr)
  /-- Cxnn (R154) -/
  | rnd (x : RegIx) (nn : Byte)
  /-- Dxyn (R191) -/
  | drw (x y : RegIx) (n : Nibble)
  /-- Ex9E (R201) -/
  | skp (x : RegIx)
  /-- ExA1 (R202) -/
  | sknp (x : RegIx)
  /-- Fx07 (R204) -/
  | ldVxDt (x : RegIx)
  /-- Fx0A (R203) -/
  | ldVxK (x : RegIx)
  /-- Fx15 (R205) -/
  | ldDtVx (x : RegIx)
  /-- Fx18 (R206) -/
  | ldStVx (x : RegIx)
  /-- Fx1E (R172) -/
  | addIVx (x : RegIx)
  /-- Fx29 (R173) -/
  | ldFVx (x : RegIx)
  /-- Fx33 (R174) -/
  | ldBVx (x : RegIx)
  /-- Fx55 (R175) -/
  | ldMemVx (x : RegIx)
  /-- Fx65 (R176) -/
  | ldVxMem (x : RegIx)
  deriving DecidableEq, Repr

end Sys2Proof
end

