-- ==== Sys2Proof/Decode.lean ====
section
/-! DEFINITION. The decoder, total on any bytes and rejecting by name, and the encoder. -/

namespace Sys2Proof

/-! ### Fields of a word (R81) -/

/-- op = w[15:12] -/
def opField (w : Word) : BitVec 4 := w.extractLsb' 12 4
/-- x = w[11:8] -/
def xField (w : Word) : RegIx := w.extractLsb' 8 4
/-- y = w[7:4] -/
def yField (w : Word) : RegIx := w.extractLsb' 4 4
/-- n = w[3:0] -/
def nField (w : Word) : Nibble := w.extractLsb' 0 4
/-- nn = w[7:0] -/
def nnField (w : Word) : Byte := w.extractLsb' 0 8
/-- nnn = w[11:0] -/
def nnnField (w : Word) : Addr := w.extractLsb' 0 12

/-- A word of two bytes, the high byte at the lower address (R64, R101). -/
def wordOfBytes (hi lo : Byte) : Word := hi ++ lo
/-- The byte of a word at the lower address (R64). -/
def highByte (w : Word) : Byte := w.extractLsb' 8 8
/-- The byte of a word at the higher address (R64). -/
def lowByte (w : Word) : Byte := w.extractLsb' 0 8

/-! ### Decoding (R84, R85, R103) -/

/-- Why bytes are no instruction: too few of them, or one of the six classes of invalid words of R86. -/
inductive Reject where
  /-- Fewer than two bytes; a fetch always gives two (R101). -/
  | tooFewBytes
  /-- 0nnn other than 00E0 and 00EE. -/
  | invalid0nnn
  /-- 5xyN with N ≠ 0. -/
  | invalid5xyN
  /-- 8xyN with N in 8..D or F. -/
  | invalid8xyN
  /-- 9xyN with N ≠ 0. -/
  | invalid9xyN
  /-- ExNN with NN not 9E or A1. -/
  | invalidExNN
  /-- FxNN with NN none of 07, 0A, 15, 18, 1E, 29, 33, 55, 65. -/
  | invalidFxNN
  deriving DecidableEq, Repr

/-- The words with op = 0x8, by n (R85). -/
def decode8 (x y : RegIx) (n : Nat) : Except Reject Instr :=
  match n with
  | 0x0 => .ok (.ldReg x y)
  | 0x1 => .ok (.orReg x y)
  | 0x2 => .ok (.andReg x y)
  | 0x3 => .ok (.xorReg x y)
  | 0x4 => .ok (.addReg x y)
  | 0x5 => .ok (.sub x y)
  | 0x6 => .ok (.shr x y)
  | 0x7 => .ok (.subn x y)
  | 0xE => .ok (.shl x y)
  | _ => .error .invalid8xyN

/-- The words with op = 0xE, by nn (R85). -/
def decodeE (x : RegIx) (nn : Nat) : Except Reject Instr :=
  match nn with
  | 0x9E => .ok (.skp x)
  | 0xA1 => .ok (.sknp x)
  | _ => .error .invalidExNN

/-- The words with op = 0xF, by nn (R85). -/
def decodeF (x : RegIx) (nn : Nat) : Except Reject Instr :=
  match nn with
  | 0x07 => .ok (.ldVxDt x)
  | 0x0A => .ok (.ldVxK x)
  | 0x15 => .ok (.ldDtVx x)
  | 0x18 => .ok (.ldStVx x)
  | 0x1E => .ok (.addIVx x)
  | 0x29 => .ok (.ldFVx x)
  | 0x33 => .ok (.ldBVx x)
  | 0x55 => .ok (.ldMemVx x)
  | 0x65 => .ok (.ldVxMem x)
  | _ => .error .invalidFxNN

/-- The instruction of a word, by the opcode map of R85; the quirks never change it (R84). -/
def decodeWord (w : Word) : Except Reject Instr :=
  match (opField w).toNat with
  | 0x0 => if w = 0x00E0#16 then .ok .cls else if w = 0x00EE#16 then .ok .ret else .error .invalid0nnn
  | 0x1 => .ok (.jp (nnnField w))
  | 0x2 => .ok (.call (nnnField w))
  | 0x3 => .ok (.seImm (xField w) (nnField w))
  | 0x4 => .ok (.sneImm (xField w) (nnField w))
  | 0x5 => if nField w = 0#4 then .ok (.seReg (xField w) (yField w)) else .error .invalid5xyN
  | 0x6 => .ok (.ldImm (xField w) (nnField w))
  | 0x7 => .ok (.addImm (xField w) (nnField w))
  | 0x8 => decode8 (xField w) (yField w) (nField w).toNat
  | 0x9 => if nField w = 0#4 then .ok (.sneReg (xField w) (yField w)) else .error .invalid9xyN
  | 0xA => .ok (.ldI (nnnField w))
  | 0xB => .ok (.jpV0 (nnnField w))
  | 0xC => .ok (.rnd (xField w) (nnField w))
  | 0xD => .ok (.drw (xField w) (yField w) (nField w))
  | 0xE => decodeE (xField w) (nnField w).toNat
  | _ => decodeF (xField w) (nnField w).toNat

/-- The instruction at the head of a byte sequence and the bytes after it (R80, R88, R91). -/
def decode : List Byte → Except Reject (Instr × List Byte)
  | hi :: lo :: rest =>
    match decodeWord (wordOfBytes hi lo) with
    | .ok i => .ok (i, rest)
    | .error r => .error r
  | _ => .error .tooFewBytes

/-! ### Encoding (R82) -/

/-- Format A: op, nnn. -/
def encA (op : BitVec 4) (nnn : Addr) : Word := op ++ nnn
/-- Formats XB and XS: op, x, nn. -/
def encXB (op : BitVec 4) (x : RegIx) (nn : Byte) : Word := op ++ x ++ nn
/-- Formats XYS and XYN: op, x, y, n. -/
def encXY (op : BitVec 4) (x y : RegIx) (n : Nibble) : Word := op ++ x ++ y ++ n

/-- The word of an instruction (R82, R84). -/
def encode : Instr → Word
  | .cls => 0x00E0#16
  | .ret => 0x00EE#16
  | .jp nnn => encA 0x1#4 nnn
  | .call nnn => encA 0x2#4 nnn
  | .seImm x nn => encXB 0x3#4 x nn
  | .sneImm x nn => encXB 0x4#4 x nn
  | .seReg x y => encXY 0x5#4 x y 0x0#4
  | .ldImm x nn => encXB 0x6#4 x nn
  | .addImm x nn => encXB 0x7#4 x nn
  | .ldReg x y => encXY 0x8#4 x y 0x0#4
  | .orReg x y => encXY 0x8#4 x y 0x1#4
  | .andReg x y => encXY 0x8#4 x y 0x2#4
  | .xorReg x y => encXY 0x8#4 x y 0x3#4
  | .addReg x y => encXY 0x8#4 x y 0x4#4
  | .sub x y => encXY 0x8#4 x y 0x5#4
  | .shr x y => encXY 0x8#4 x y 0x6#4
  | .subn x y => encXY 0x8#4 x y 0x7#4
  | .shl x y => encXY 0x8#4 x y 0xE#4
  | .sneReg x y => encXY 0x9#4 x y 0x0#4
  | .ldI nnn => encA 0xA#4 nnn
  | .jpV0 nnn => encA 0xB#4 nnn
  | .rnd x nn => encXB 0xC#4 x nn
  | .drw x y n => encXY 0xD#4 x y n
  | .skp x => encXB 0xE#4 x 0x9E#8
  | .sknp x => encXB 0xE#4 x 0xA1#8
  | .ldVxDt x => encXB 0xF#4 x 0x07#8
  | .ldVxK x => encXB 0xF#4 x 0x0A#8
  | .ldDtVx x => encXB 0xF#4 x 0x15#8
  | .ldStVx x => encXB 0xF#4 x 0x18#8
  | .addIVx x => encXB 0xF#4 x 0x1E#8
  | .ldFVx x => encXB 0xF#4 x 0x29#8
  | .ldBVx x => encXB 0xF#4 x 0x33#8
  | .ldMemVx x => encXB 0xF#4 x 0x55#8
  | .ldVxMem x => encXB 0xF#4 x 0x65#8

/-- The two bytes of an instruction as memory holds them (R91). -/
def encodeBytes (i : Instr) : List Byte := [highByte (encode i), lowByte (encode i)]

/-! ### Words as spec/opcode_table.json numbers their bits -/

/-- The word whose low `nbits` bits are those of `w` and whose other bits are 0. Every row of the table has 16 bits. -/
def tableWord (nbits w : Nat) : Word := BitVec.ofNat 16 (w % 2 ^ nbits)

/-- What the decoder reads from an instruction whose bits are `w`, numbered as the table numbers them. -/
def decodeTableWord (nbits w : Nat) : Option Instr :=
  match decode [highByte (tableWord nbits w), lowByte (tableWord nbits w)] with
  | .ok (i, _) => some i
  | .error _ => none

end Sys2Proof
end

