-- ==== Sys2Proof/Config.lean ====
section
/-! DEFINITION. What a model instance fixes (the quirk configuration, the font, the throttle) and the one free value of the spec, the random byte. -/

namespace Sys2Proof

/-- The quirk configuration Q: four Booleans, fixed for the run (R38 to R42). -/
structure Quirks where
  /-- ShiftQuirk (R39): on, 8xy6 and 8xyE shift Vx in place; off, they shift Vy into Vx. -/
  shift : Bool
  /-- JumpQuirk (R40): on, Bnnn adds V[nnn[11:8]]; off, V0. -/
  jump : Bool
  /-- LogicQuirk (R41): on, 8xy1, 8xy2 and 8xy3 force VF = 0. -/
  logic : Bool
  /-- LoadStoreQuirk (R42): on, Fx55 and Fx65 add x + 1 to I. -/
  loadstore : Bool
  deriving DecidableEq, Repr

/-- The 80-byte font table: 16 glyphs of 5 bytes (R44). -/
abbrev Font := Vector Byte 80

/-- The parameters of the machine (R20: "not state, but parameters of the model"). State carries them as plain data, so that
a statement about every state holds for every configuration. DESIGN CHOICE, safe: notes/assumptions/1.md, 2.md and 3.md. -/
structure Config where
  /-- Q (R38). -/
  quirks : Quirks
  /-- FONT (R44). -/
  font : Font
  /-- THROTTLE (R43): read by nothing; only the host's change of it writes it (R251). -/
  throttle : Nat
  deriving DecidableEq, Repr

/-- The free value of Cxnn: the random byte of the k-th draw for which the environment had supplied none. It has no body, so
nothing can be proved of its value: "each Cxnn takes one free input byte, 0..255, under no law" (R154, R248).
DESIGN CHOICE (its form), safe: notes/assumptions/4.md. -/
opaque Config.randomByte : Nat → Byte

end Sys2Proof
end

