-- ==== Sys2Proof/Machine/Defaults.lean ====
section
/-! DEFINITION. The configuration of State.reset: the spec's default font, and the values the model names where the spec gives none. -/

namespace Sys2Proof.Machine

/-- The default FONT of R44: the conventional font, "from general knowledge, not in source".
PRESUMED, unsafe: notes/assumptions/2.md. -/
def defaultFont : Font :=
  #v[0xF0, 0x90, 0x90, 0x90, 0xF0,  0x20, 0x60, 0x20, 0x20, 0x70,
     0xF0, 0x10, 0xF0, 0x80, 0xF0,  0xF0, 0x10, 0xF0, 0x10, 0xF0,
     0x90, 0x90, 0xF0, 0x10, 0x10,  0xF0, 0x80, 0xF0, 0x10, 0xF0,
     0xF0, 0x80, 0xF0, 0x90, 0xF0,  0xF0, 0x10, 0x20, 0x40, 0x40,
     0xF0, 0x90, 0xF0, 0x90, 0xF0,  0xF0, 0x90, 0xF0, 0x10, 0xF0,
     0xF0, 0x90, 0xF0, 0x90, 0x90,  0xE0, 0x90, 0xE0, 0x90, 0xE0,
     0xF0, 0x80, 0x80, 0x80, 0xF0,  0xE0, 0x90, 0x90, 0x90, 0xE0,
     0xF0, 0x80, 0xF0, 0x80, 0xF0,  0xF0, 0x80, 0xF0, 0x80, 0x80]

/-- Q of State.reset: every quirk off. R38 gives no default. DESIGN CHOICE, unsafe: notes/assumptions/1.md. -/
def defaultQuirks : Quirks := { shift := false, jump := false, logic := false, loadstore := false }

/-- THROTTLE of State.reset. R43 gives no default. DESIGN CHOICE, safe: notes/assumptions/3.md. -/
def defaultThrottle : Nat := 0

/-- The configuration of State.reset. -/
def defaultConfig : Config := { quirks := defaultQuirks, font := defaultFont, throttle := defaultThrottle }

end Sys2Proof.Machine
end

