-- ==== Sys2Proof/Machine/State.lean ====
section
/-! DEFINITION. The state of the machine, as plain data, the reasons a step can stop, and the state after reset. -/

namespace Sys2Proof.Machine

/-- EXEC, the execution state (R34). -/
inductive ExecState where
  | stopped
  | running
  | paused
  | stepping
  deriving DecidableEq, Repr

/-- The three fatal errors of an instruction step (R220, R221). -/
inductive FatalError where
  /-- The fetched word matches no row of R84. -/
  | invalidOpcode
  /-- 2nnn with SP = 16. -/
  | stackOverflow
  /-- 00EE with SP = 0. -/
  | stackUnderflow
  deriving DecidableEq, Repr

/-- The bytes of memory that differ from the reset contents, by rising address (`Memory.wf`). DEDUCED, safe: notes/assumptions/11.md. -/
abbrev Memory := List Host.Cell

/-- The framebuffer: 32 rows of 64 cells, row 0 the top, column 0 the left (R30). -/
abbrev Frame := Vector (Vector Bool 64) 32

/-- The atomic events of R240, in the order the environment gives them. -/
inductive Event where
  /-- One instruction step (R107). -/
  | instr
  /-- The 60 Hz tick (R242). -/
  | tick
  /-- The host's Start (R230). -/
  | start
  /-- The host's Pause (R231). -/
  | pause
  /-- The host's Resume (R232). -/
  | resume
  /-- The host's Step (R233). -/
  | step
  /-- The host's Stop (R234). -/
  | stop
  /-- The host's LoadRom (R254). -/
  | loadRom (bytes : List Byte)
  /-- The host's SetKey (R246); the index has four bits, so that one outside 0..15 cannot be sent. -/
  | setKey (k : KeyIx) (pressed : Bool)
  /-- The host's change of THROTTLE (R251). -/
  | setThrottle (delay : Nat)
  /-- A read by the host of FB, the snapshot, FAULT or sound-active (R252, R258): it changes no state. -/
  | read
  deriving DecidableEq, Repr

/-- The output events of R250. -/
inductive Output where
  /-- After every 00E0 and Dxyn (R194). -/
  | frameDirty
  /-- From an Fx18 that takes ST from 0 to a non-zero value, with that value in ticks (R206, R244). -/
  | beepStart (duration : Byte)
  /-- From a tick that takes ST from 1 to 0 (R242, R244). -/
  | beepEnd
  /-- LoadRom's result Ok (R254). -/
  | loadOk
  /-- LoadRom's result RomTooLarge (R254). -/
  | romTooLarge
  deriving DecidableEq, Repr

/-- The state: the state vector of R20, the parameters of the machine (`cfg`), and the model's own four fields, which stand
for the environment (notes/assumptions/4.md, 5.md and 6.md). -/
structure State where
  /-- MEM (R31). -/
  mem : Memory
  /-- V0..VF (R21). -/
  v : Vector Byte 16
  /-- I (R24). -/
  i : Word
  /-- PC (R23). -/
  pc : Word
  /-- STACK (R25). -/
  stack : Vector Word 16
  /-- SP, the number of occupied slots, 0..16 (R26). -/
  sp : Fin 17
  /-- DT, the delay timer (R27). -/
  dt : Byte
  /-- ST, the sound timer (R28). -/
  st : Byte
  /-- KEY, true meaning pressed (R29). -/
  key : Vector Bool 16
  /-- FB (R30). -/
  fb : Frame
  /-- OPCODE, the word most recently fetched (R35). -/
  opcode : Word
  /-- EXEC (R34). -/
  execState : ExecState
  /-- FAULT, the fatal-error latch; `none` is None (R36). -/
  fault : Option FatalError
  /-- Q, FONT and THROTTLE, parameters and not state (R38, R43, R44). -/
  cfg : Config
  /-- The model's own: random bytes supplied by the environment and not yet taken (R248, R250). -/
  rnd : List Byte
  /-- The model's own: how many random bytes were taken when none was supplied. -/
  draws : Nat
  /-- The model's own: the events the environment has given and the machine has not yet taken, next first (R240). -/
  inputs : List Event
  /-- The model's own: the output events so far, oldest first (R250). -/
  outputs : List Output
  deriving DecidableEq, Repr

/-- The faults of the machine as a whole. There is none: the spec's three fatal errors are TAKEN, as next states that latch
FAULT and stop (R222), no memory access faults (R61), and no instruction is left without an effect. Safe: notes/assumptions/9.md. -/
inductive Fault where
  deriving DecidableEq, Repr

/-- The refusals of a step. -/
inductive Refusal where
  /-- Raised by exec's arm of an instruction that has no meaning yet. Safe: the machine stops. No arm raises it. -/
  | notModelled (mnemonic : String)
  /-- Raised by a LoadRom event while EXEC is not Stopped, which the spec does not admit: "a host action outside this table
  has no meaning in this spec" (R254, R260). Safe: the machine stops. notes/assumptions/10.md. -/
  | loadRomNotStopped
  deriving DecidableEq, Repr

/-- The outcome of a step. -/
abbrev Result := Host.Outcome State Fault Refusal

/-- The state right after reset, for a machine with the parameters `cfg` (R280); the environment's fields are empty. -/
def State.resetWith (cfg : Config) : State where
  mem := []
  v := Vector.replicate 16 0x00#8
  i := 0x000#16
  pc := 0x200#16
  stack := Vector.replicate 16 0x0000#16
  sp := 0
  dt := 0x00#8
  st := 0x00#8
  key := Vector.replicate 16 false
  fb := Vector.replicate 32 (Vector.replicate 64 false)
  opcode := 0x0000#16
  execState := .stopped
  fault := none
  cfg := cfg
  rnd := []
  draws := 0
  inputs := []
  outputs := []

/-- The state right after reset of the machine with the default parameters (R280; `defaultConfig`). -/
def State.reset : State := State.resetWith defaultConfig

end Sys2Proof.Machine
end

