-- ==== Sys2Proof/Machine/Ops.lean ====
section
/-! DEFINITION. The named operations over memory, registers, the framebuffer and the outputs; taking a fatal error, and the
reset, which is the only way out of one. -/

namespace Sys2Proof.Machine

/-! ### Memory (R31, R60 to R62) -/

/-- An address reduced modulo 4096 (R8, R61). -/
def wrap12 (a : Word) : Word := a % 0x1000#16

/-- The reset contents of memory, which an unlisted address reads as: FONT at 0x050..0x09F, 0 elsewhere (R31, R280). -/
def Memory.unlisted (font : Font) (a : Nat) : Byte :=
  if h : 0x50 ≤ a ∧ a < 0xA0 then font[a - 0x50] else 0x00#8

/-- The byte at an address. -/
def Memory.read (font : Font) : Memory → Nat → Byte
  | [], a => Memory.unlisted font a
  | (k, b) :: rest, a => if a = k then b else Memory.read font rest a

/-- Set the byte at an address, keeping the canonical form. -/
def Memory.write (font : Font) : Memory → Nat → Byte → Memory
  | [], a, b => if b = Memory.unlisted font a then [] else [(a, b)]
  | (k, c) :: rest, a, b =>
    if a < k then (if b = Memory.unlisted font a then (k, c) :: rest else (a, b) :: (k, c) :: rest)
    else if a = k then (if b = Memory.unlisted font a then rest else (a, b) :: rest)
    else (k, c) :: Memory.write font rest a b

/-- The canonical form from a lowest address on: addresses strictly rising and below 4096, no entry equal to what the unlisted
address reads as. -/
def Memory.wfFrom (font : Font) : Nat → Memory → Bool
  | _, [] => true
  | lo, (k, b) :: rest =>
    decide (lo ≤ k) && decide (k < 0x1000) && decide (b ≠ Memory.unlisted font k) && Memory.wfFrom font (k + 1) rest

/-- The canonical form of memory. -/
def Memory.wf (font : Font) (m : Memory) : Bool := Memory.wfFrom font 0 m

/-- MemRead(a, 1) (R9, R61). -/
def State.readByte (s : State) (a : Word) : Byte := Memory.read s.cfg.font s.mem (wrap12 a).toNat

/-- MemWrite(a, 1, b) (R9, R61). -/
def State.writeByte (s : State) (a : Word) (b : Byte) : State :=
  { s with mem := Memory.write s.cfg.font s.mem (wrap12 a).toNat b }

/-- Write bytes at consecutive addresses from `a`, each wrapped on its own (R61, R170). -/
def State.writeBytes (s : State) (a : Word) : List Byte → State
  | [] => s
  | b :: bs => (s.writeByte a b).writeBytes (a + 1#16) bs

/-- Read `n` bytes at consecutive addresses from `a`, each wrapped on its own (R61, R170). -/
def State.readBytes (s : State) (a : Word) (n : Nat) : List Byte :=
  (List.range n).map fun k => s.readByte (a + BitVec.ofNat 16 k)

/-! ### Registers (R21 to R26) -/

/-- V[x] (R9). -/
def State.getV (s : State) (x : RegIx) : Byte := s.v[x.toNat]

/-- V[x] <- b (R9). -/
def State.setV (s : State) (x : RegIx) (b : Byte) : State := { s with v := s.v.set x.toNat b }

/-- pc <- target, wrapped (R9, R23). -/
def State.setPc (s : State) (target : Word) : State := { s with pc := wrap12 target }

/-- I <- a, wrapped (R9, R24). -/
def State.setI (s : State) (a : Word) : State := { s with i := wrap12 a }

/-- V[x] <- result, then VF <- flag, in that order (R105). -/
def State.setVThenFlag (s : State) (x : RegIx) (result flag : Byte) : State := (s.setV x result).setV vfIx flag

/-- `skip` when the condition holds: pc <- PC + 2 (R120). -/
def State.skipIf (s : State) (c : Bool) : State := if c then s.setPc (s.pc + 2#16) else s

/-- STACK[SP] <- a, then SP <- SP + 1, for a stack with room (R123). -/
def State.push (s : State) (a : Word) (h : s.sp.val < 16) : State :=
  { s with stack := s.stack.set s.sp.val a, sp := ⟨s.sp.val + 1, by omega⟩ }

/-- STACK[SP - 1], for a stack that is not empty (R121). -/
def State.top (s : State) (h : 0 < s.sp.val) : Word := s.stack[s.sp.val - 1]'(by omega)

/-- SP <- SP - 1; the slot is not cleared (R25, R121). -/
def State.pop (s : State) : State := { s with sp := ⟨s.sp.val - 1, by omega⟩ }

/-! ### Framebuffer (R30, R191) -/

/-- FB[row][col], row and column each reduced on its own (R191). -/
def Frame.cell (f : Frame) (row col : Nat) : Bool :=
  (f[row % 32]'(Nat.mod_lt _ (by decide)))[col % 64]'(Nat.mod_lt _ (by decide))

/-- FB[row][col] <- FB[row][col] ^ 1, row and column each reduced on its own (R191). -/
def Frame.toggle (f : Frame) (row col : Nat) : Frame :=
  f.set (row % 32)
    ((f[row % 32]'(Nat.mod_lt _ (by decide))).set (col % 64) (!f.cell row col) (Nat.mod_lt _ (by decide)))
    (Nat.mod_lt _ (by decide))

/-- The framebuffer with every cell 0 (R190). -/
def Frame.clear : Frame := Vector.replicate 32 (Vector.replicate 64 false)

/-! ### Outputs and the random source (R244, R248) -/

/-- Emit an output event. -/
def State.emit (s : State) (o : Output) : State := { s with outputs := s.outputs ++ [o] }

/-- RND(): the random byte of this Cxnn (R9, R248): the next one the environment supplied, else a free value. -/
def State.random (s : State) : Byte :=
  match s.rnd with
  | r :: _ => r
  | [] => Config.randomByte s.draws

/-- Take the random byte that `State.random` gives: one byte per executed Cxnn (R248). -/
def State.takeRandom (s : State) : State :=
  match s.rnd with
  | _ :: rest => { s with rnd := rest }
  | [] => { s with draws := s.draws + 1 }

/-! ### Fetch (R101, R102), fatal errors (R222) and reset (R280) -/

/-- Whether an instruction step is enabled: EXEC is Running or Stepping, and FAULT = None (R100). -/
def State.enabled (s : State) : Bool :=
  (decide (s.execState = .running) || decide (s.execState = .stepping)) && decide (s.fault = none)

/-- The word at PC, high byte first, each address wrapped (R101). -/
def State.fetchWord (s : State) : Word := wordOfBytes (s.readByte s.pc) (s.readByte (s.pc + 1#16))

/-- OPCODE <- the word at PC, then pc <- PC + 2 (R101, R102). -/
def State.fetch (s : State) : State := { s with opcode := s.fetchWord, pc := wrap12 (s.pc + 2#16) }

/-- Taking a fatal error, trap entry: FAULT <- kind, EXEC <- Stopped, and nothing else; no state is saved, and there is no
vector (R222). There is no return from one: only the reset below clears FAULT (R226). -/
def State.raise (s : State) (kind : FatalError) : State := { s with fault := some kind, execState := .stopped }

/-- Completion of an instruction step: Stepping becomes Paused; Running stays, and Stopped after a fault stays (R106). -/
def State.complete (s : State) : State :=
  if s.execState = .stepping then { s with execState := .paused } else s

/-- The reset of R280: every element of the state vector at its reset value; Q, FONT and THROTTLE unchanged, no output event.
The environment's fields are not the core's and stay. -/
def State.resetCore (s : State) : State :=
  { State.resetWith s.cfg with rnd := s.rnd, draws := s.draws, inputs := s.inputs, outputs := s.outputs }

end Sys2Proof.Machine
end

