-- ==== Sys2Proof/Machine/Operands.lean ====
section
/-! DEFINITION. The operand forms: the values and addresses that instructions read (R83, R104). -/

namespace Sys2Proof.Machine

/-- The value 8xy6 and 8xyE shift: V[x] under ShiftQuirk, V[y] without it (R150). -/
def State.shiftSource (s : State) (x y : RegIx) : Byte := if s.cfg.quirks.shift then s.getV x else s.getV y

/-- The register Bnnn adds: V[nnn[11:8]] under JumpQuirk, V0 without it (R128). -/
def State.jumpOffset (s : State) (nnn : Addr) : Byte :=
  if s.cfg.quirks.jump then s.getV (nnn.extractLsb' 8 4) else s.getV 0x0#4

/-- An address field as a 16-bit value (R83). -/
def addrWord (nnn : Addr) : Word := nnn.zeroExtend 16

/-- A byte as a 16-bit value (R83). -/
def byteWord (b : Byte) : Word := b.zeroExtend 16

/-- The key a register names: its low nibble (R200). -/
def State.keyIndex (s : State) (x : RegIx) : KeyIx := (s.getV x).extractLsb' 0 4

/-- KEY[k] (R29). -/
def State.keyDown (s : State) (k : KeyIx) : Bool := s.key[k.toNat]

/-- The least k with KEY[k], if any (R203). -/
def State.firstKey (s : State) : Option (Fin 16) := (List.finRange 16).find? fun k => s.key[k]

/-- The address of the glyph of a register value, the full 8 bits used: 0x50 + 5 * V[x] (R173). -/
def glyphAddr (b : Byte) : Word := 0x50#16 + 5#16 * byteWord b

/-- The decimal digits of a byte, hundreds first (R174). -/
def bcdDigits (b : Byte) : List Byte :=
  [BitVec.ofNat 8 (b.toNat / 100), BitVec.ofNat 8 (b.toNat / 10 % 10), BitVec.ofNat 8 (b.toNat % 10)]

/-- V0..Vx, in order (R175). -/
def State.regsUpTo (s : State) (x : RegIx) : List Byte := s.v.toList.take (x.toNat + 1)

/-- V[k] <- MEM[a + k] for k in 0..x (R176). -/
def State.loadRegs (s : State) (a : Word) (x : RegIx) : State :=
  { s with v := Vector.ofFn fun k : Fin 16 => if k.val ≤ x.toNat then s.readByte (a + BitVec.ofNat 16 k.val) else s.v[k] }

/-- I <- a + x + 1 under LoadStoreQuirk, no change without it (R42, R175, R176). -/
def State.postIndex (s : State) (a : Word) (x : RegIx) : State :=
  if s.cfg.quirks.loadstore then s.setI (a + BitVec.ofNat 16 (x.toNat + 1)) else s

/-- VF <- 0 under LogicQuirk, no change without it (R147). -/
def State.logicQuirk (s : State) : State := if s.cfg.quirks.logic then s.setV vfIx 0x00#8 else s

end Sys2Proof.Machine
end

