-- ==== Sys2Proof/Machine/Controller.lean ====
section
/-! DEFINITION. The host's side: the execution controller's commands, the tick, key updates, LoadRom, and what the host reads
(60_exceptions.md). Each command is an atomic event at an instruction boundary (R235). -/

namespace Sys2Proof.Machine

/-! ### Commands of the execution controller (R229) -/

/-- Start (R230). -/
def State.hostStart (s : State) : State :=
  if s.execState = .stopped ∧ s.fault = none then { s with execState := .running } else s

/-- Pause (R231). -/
def State.hostPause (s : State) : State := if s.execState = .running then { s with execState := .paused } else s

/-- Resume (R232). -/
def State.hostResume (s : State) : State := if s.execState = .paused then { s with execState := .running } else s

/-- Step: enables one instruction step; not queued (R233). -/
def State.hostStep (s : State) : State := if s.execState = .paused then { s with execState := .stepping } else s

/-- Stop: the reset, in every state (R234). -/
def State.hostStop (s : State) : State := s.resetCore

/-! ### Tick, keys, throttle (R242, R246, R251) -/

/-- A timer one tick later: it never wraps below 0 (R242). -/
def timerDown (t : Byte) : Byte := if t = 0x00#8 then t else t - 1#8

/-- The tick: DT and ST toward 0 while Running, with beep-end when ST goes from 1 to 0; ignored in every other state (R242). -/
def State.tick (s : State) : State :=
  if s.execState = .running then
    let t := { s with dt := timerDown s.dt, st := timerDown s.st }
    if s.st = 0x01#8 then t.emit .beepEnd else t
  else s

/-- SetKey(k, p): KEY[k] <- p, in every state (R246). -/
def State.setKey (s : State) (k : KeyIx) (pressed : Bool) : State := { s with key := s.key.set k.toNat pressed }

/-- The host's change of THROTTLE, the only parameter that may change (R251). -/
def State.setThrottle (s : State) (delay : Nat) : State := { s with cfg := { s.cfg with throttle := delay } }

/-! ### LoadRom (R254) -/

/-- The most bytes LoadRom accepts: 4096 - 0x200 (R254). -/
def romMax : Nat := 0x1000 - 0x200

/-- The address LoadRom copies byte 0 to (R254). -/
def romBase : Word := 0x200#16

/-- LoadRom while Stopped: RomTooLarge and no change, or a reset and the copy (R254). While not Stopped it is not admitted, and
the model refuses it. Safe: notes/assumptions/10.md. -/
def State.loadRom (s : State) (bytes : List Byte) : Result :=
  if s.execState = .stopped then
    if bytes.length > romMax then .next (s.emit .romTooLarge)
    else .next ((s.resetCore.writeBytes romBase bytes).emit .loadOk)
  else .refused .loadRomNotStopped

/-! ### What the host reads (R244, R252, R256, R258); none of it changes state -/

/-- The debug snapshot (R258). -/
structure Snapshot where
  v : Vector Byte 16
  pc : Word
  sp : Fin 17
  stack : Vector Word 16
  i : Word
  dt : Byte
  st : Byte
  opcode : Word
  execState : ExecState
  fault : Option FatalError
  deriving DecidableEq, Repr

/-- Taking the debug snapshot (R258). -/
def State.snapshot (s : State) : Snapshot where
  v := s.v
  pc := s.pc
  sp := s.sp
  stack := s.stack
  i := s.i
  dt := s.dt
  st := s.st
  opcode := s.opcode
  execState := s.execState
  fault := s.fault

/-- The frame output: a copy of FB (R252). -/
def State.frameOutput (s : State) : Frame := s.fb

/-- The sound-active level: ST ≠ 0 (R244). -/
def State.soundActive (s : State) : Bool := decide (s.st ≠ 0x00#8)

/-- The 2-bit code of EXEC (R34). -/
def execCode : ExecState → BitVec 2
  | .stopped => 0
  | .running => 1
  | .paused => 2
  | .stepping => 3

/-- The 2-bit code of FAULT (R36, R221). -/
def faultCode : Option FatalError → BitVec 2
  | none => 0
  | some .invalidOpcode => 1
  | some .stackOverflow => 2
  | some .stackUnderflow => 3

/-- The FAULT output (R256). -/
def State.faultOutput (s : State) : BitVec 2 := faultCode s.fault

/-- The address of the faulting instruction in a faulted state (R223). -/
def State.faultAddress (s : State) : Word := wrap12 (s.pc - 2#16)

/-- The QUIRK word: bit 0 shift, bit 1 jump, bit 2 logic, bit 3 loadstore (R38). -/
def quirkWord (q : Quirks) : BitVec 4 :=
  BitVec.ofBool q.loadstore ++ BitVec.ofBool q.logic ++ BitVec.ofBool q.jump ++ BitVec.ofBool q.shift

end Sys2Proof.Machine
end

