-- ==== Sys2Proof/Machine/Flags.lean ====
section
/-! DEFINITION. The arithmetic of the ALU with the value it gives VF. Each function answers (result, flag), computed exactly on
integers and then reduced (R140). -/

namespace Sys2Proof.Machine

/-- The flag value of a condition: 1 or 0. -/
def flagOf (c : Bool) : Byte := if c then 0x01#8 else 0x00#8

/-- a + b, with the carry: the exact sum exceeds 255 (R148). -/
def addCarry (a b : Byte) : Byte × Byte :=
  let exact := a.toNat + b.toNat
  (BitVec.ofNat 8 (exact % 256), flagOf (decide (exact > 255)))

/-- a - b, with the no-borrow flag: a ≥ b (R149, R152). -/
def subNoBorrow (a b : Byte) : Byte × Byte :=
  (BitVec.ofInt 8 (((a.toNat : Int) - (b.toNat : Int)) % 256), flagOf (decide (a.toNat ≥ b.toNat)))

/-- v >> 1, with the bit shifted out, bit 0 (R151). -/
def shiftRight1 (v : Byte) : Byte × Byte := (v >>> 1, flagOf (v.getLsbD 0))

/-- (v << 1) mod 256, with the bit shifted out, bit 7 (R153). -/
def shiftLeft1 (v : Byte) : Byte × Byte := (v <<< 1, flagOf (v.getLsbD 7))

end Sys2Proof.Machine
end

