-- ==== Sys2Proof/Machine/Alu.lean ====
section
/-! DEFINITION. Register loads and the ALU (42_alu.md). -/

namespace Sys2Proof.Machine

/-- 6xnn LD (R141). -/
def execLdImm (x : RegIx) (nn : Byte) (s : State) : Result := .next (s.setV x nn)

/-- 7xnn ADD: no flag (R142). -/
def execAddImm (x : RegIx) (nn : Byte) (s : State) : Result := .next (s.setV x (addCarry (s.getV x) nn).1)

/-- 8xy0 LD: LogicQuirk does not apply (R143). -/
def execLdReg (x y : RegIx) (s : State) : Result := .next (s.setV x (s.getV y))

/-- 8xy1 OR (R144). -/
def execOrReg (x y : RegIx) (s : State) : Result :=
  .next ((s.setV x (s.getV x ||| s.getV y)).logicQuirk)

/-- 8xy2 AND (R145). -/
def execAndReg (x y : RegIx) (s : State) : Result :=
  .next ((s.setV x (s.getV x &&& s.getV y)).logicQuirk)

/-- 8xy3 XOR (R146). -/
def execXorReg (x y : RegIx) (s : State) : Result :=
  .next ((s.setV x (s.getV x ^^^ s.getV y)).logicQuirk)

/-- 8xy4 ADD (R148). -/
def execAddReg (x y : RegIx) (s : State) : Result :=
  let r := addCarry (s.getV x) (s.getV y)
  .next (s.setVThenFlag x r.1 r.2)

/-- 8xy5 SUB (R149). -/
def execSub (x y : RegIx) (s : State) : Result :=
  let r := subNoBorrow (s.getV x) (s.getV y)
  .next (s.setVThenFlag x r.1 r.2)

/-- 8xy6 SHR (R151). -/
def execShr (x y : RegIx) (s : State) : Result :=
  let r := shiftRight1 (s.shiftSource x y)
  .next (s.setVThenFlag x r.1 r.2)

/-- 8xy7 SUBN (R152). -/
def execSubn (x y : RegIx) (s : State) : Result :=
  let r := subNoBorrow (s.getV y) (s.getV x)
  .next (s.setVThenFlag x r.1 r.2)

/-- 8xyE SHL (R153). -/
def execShl (x y : RegIx) (s : State) : Result :=
  let r := shiftLeft1 (s.shiftSource x y)
  .next (s.setVThenFlag x r.1 r.2)

/-- Cxnn RND: the random byte is a free value (R154, R248). DESIGN CHOICE (the free value's form), safe: notes/assumptions/4.md. -/
def execRnd (x : RegIx) (nn : Byte) (s : State) : Result := .next (s.takeRandom.setV x (s.random &&& nn))

end Sys2Proof.Machine
end

