-- ==== Sys2Proof/Machine/Display.lean ====
section
/-! DEFINITION. The framebuffer instructions and the XOR-sprite engine (44_display.md). -/

namespace Sys2Proof.Machine

/-- A draw in progress: the framebuffer so far and `hit`, whether a cell has gone from 1 to 0 (R191). -/
structure Raster where
  frame : Frame
  hit : Bool
  deriving DecidableEq, Repr

/-- One sprite pixel at (row, col): a set bit toggles the cell, and hits when the cell was 1 (R191). -/
def Raster.pixel (bit : Bool) (row col : Nat) (d : Raster) : Raster :=
  if bit then { frame := d.frame.toggle row col, hit := d.hit || d.frame.cell row col } else d

/-- One sprite row: bit 7 at column x0, down to bit 0 at x0 + 7 (R192). PRESUMED by the spec: notes/assumptions/15.md. -/
def Raster.spriteRow (row x0 : Nat) (b : Byte) (d : Raster) : Raster :=
  (List.range 8).foldl (fun d c => d.pixel (b.getLsbD (7 - c)) row (x0 + c)) d

/-- The rows of a sprite, the first at row y0 (R191). -/
def Raster.sprite (x0 : Nat) : Nat → List Byte → Raster → Raster
  | _, [], d => d
  | y0, b :: bs, d => Raster.sprite x0 (y0 + 1) bs (d.spriteRow y0 x0 b)

/-- The draw of Dxyn: from (V[x] mod 64, V[y] mod 32), the n bytes at I, with `hit` reset before it (R191). -/
def State.draw (s : State) (x y : RegIx) (n : Nibble) : Raster :=
  Raster.sprite ((s.getV x).toNat % 64) ((s.getV y).toNat % 32) (s.readBytes s.i n.toNat) { frame := s.fb, hit := false }

/-- 00E0 CLS (R190, R194). -/
def execCls (s : State) : Result := .next ({ s with fb := Frame.clear }.emit .frameDirty)

/-- Dxyn DRW (R191, R194). -/
def execDrw (x y : RegIx) (n : Nibble) (s : State) : Result :=
  let d := s.draw x y n
  .next (({ s with fb := d.frame }.setV vfIx (flagOf d.hit)).emit .frameDirty)

end Sys2Proof.Machine
end

