-- ==== Sys2Proof/Machine/Flow.lean ====
section
/-! DEFINITION. Control transfer and skips (41_flow.md). Every meaning runs after the fetch, so PC is the instruction's address
plus 2 (R10, R102). -/

namespace Sys2Proof.Machine

/-- 00EE RET (R121). -/
def execRet (s : State) : Result :=
  if h : 0 < s.sp.val then .next (s.pop.setPc (s.top h)) else .next (s.raise .stackUnderflow)

/-- 1nnn JP (R122). -/
def execJp (nnn : Addr) (s : State) : Result := .next (s.setPc (addrWord nnn))

/-- 2nnn CALL (R123). -/
def execCall (nnn : Addr) (s : State) : Result :=
  if h : s.sp.val < 16 then .next ((s.push s.pc h).setPc (addrWord nnn)) else .next (s.raise .stackOverflow)

/-- 3xnn SE (R124). -/
def execSeImm (x : RegIx) (nn : Byte) (s : State) : Result := .next (s.skipIf (s.getV x == nn))

/-- 4xnn SNE (R125). -/
def execSneImm (x : RegIx) (nn : Byte) (s : State) : Result := .next (s.skipIf (s.getV x != nn))

/-- 5xy0 SE (R126). -/
def execSeReg (x y : RegIx) (s : State) : Result := .next (s.skipIf (s.getV x == s.getV y))

/-- 9xy0 SNE (R127). -/
def execSneReg (x y : RegIx) (s : State) : Result := .next (s.skipIf (s.getV x != s.getV y))

/-- Bnnn JP V0 (R128). -/
def execJpV0 (nnn : Addr) (s : State) : Result := .next (s.setPc (addrWord nnn + byteWord (s.jumpOffset nnn)))

end Sys2Proof.Machine
end

