-- ==== Sys2Proof/Machine/Index.lean ====
section
/-! DEFINITION. The index register and memory transfers (43_index_memory.md). -/

namespace Sys2Proof.Machine

/-- Annn LD I (R171). -/
def execLdI (nnn : Addr) (s : State) : Result := .next (s.setI (addrWord nnn))

/-- Fx1E ADD I: VF is not written (R172). -/
def execAddIVx (x : RegIx) (s : State) : Result := .next (s.setI (s.i + byteWord (s.getV x)))

/-- Fx29 LD F (R173). -/
def execLdFVx (x : RegIx) (s : State) : Result := .next (s.setI (glyphAddr (s.getV x)))

/-- Fx33 LD B (R174). -/
def execLdBVx (x : RegIx) (s : State) : Result := .next (s.writeBytes s.i (bcdDigits (s.getV x)))

/-- Fx55 LD [I], Vx (R175). -/
def execLdMemVx (x : RegIx) (s : State) : Result := .next ((s.writeBytes s.i (s.regsUpTo x)).postIndex s.i x)

/-- Fx65 LD Vx, [I] (R176). -/
def execLdVxMem (x : RegIx) (s : State) : Result := .next ((s.loadRegs s.i x).postIndex s.i x)

end Sys2Proof.Machine
end

