-- ==== Sys2Proof/Machine/KeyTimer.lean ====
section
/-! DEFINITION. The keypad and timer instructions (45_keypad_timers.md). -/

namespace Sys2Proof.Machine

/-- Ex9E SKP (R201). -/
def execSkp (x : RegIx) (s : State) : Result := .next (s.skipIf (s.keyDown (s.keyIndex x)))

/-- ExA1 SKNP (R202). -/
def execSknp (x : RegIx) (s : State) : Result := .next (s.skipIf (!s.keyDown (s.keyIndex x)))

/-- Fx07 LD Vx, DT (R204). -/
def execLdVxDt (x : RegIx) (s : State) : Result := .next (s.setV x s.dt)

/-- Fx0A LD Vx, K: the least pressed key, or back to the same instruction (R203). -/
def execLdVxK (x : RegIx) (s : State) : Result :=
  match s.firstKey with
  | some k => .next (s.setV x (BitVec.ofNat 8 k.val))
  | none => .next (s.setPc (s.pc - 2#16))

/-- Fx15 LD DT, Vx (R205). -/
def execLdDtVx (x : RegIx) (s : State) : Result := .next { s with dt := s.getV x }

/-- Fx18 LD ST, Vx: beep-start when ST goes from 0 to non-zero (R206, R244). -/
def execLdStVx (x : RegIx) (s : State) : Result :=
  let t := { s with st := s.getV x }
  if s.st = 0x00#8 ∧ s.getV x ≠ 0x00#8 then .next (t.emit (.beepStart (s.getV x))) else .next t

end Sys2Proof.Machine
end

