-- ==== Sys2Proof/Machine/Cycle.lean ====
section
/-! DEFINITION. The instruction step (40_cycle.md) and the events of R240. -/

namespace Sys2Proof.Machine

/-- Decode the fetched word and run its instruction; a word that is none raises InvalidOpcode (R103). -/
def dispatch (s : State) : Result :=
  match decodeWord s.opcode with
  | .ok i => exec i s
  | .error _ => .next (s.raise .invalidOpcode)

/-- The completion of a step whose handler answered a next state (R106). -/
def completed : Result → Result
  | .next t => .next t.complete
  | .fault f => .fault f
  | .refused r => .refused r

/-- The instruction step (R107). Where it is not enabled no instruction executes and nothing changes (R100).
DEDUCED, safe: notes/assumptions/7.md. -/
def instructionStep (s : State) : Result := if s.enabled then completed (dispatch s.fetch) else .next s

/-- One event of R240. -/
def runEvent (e : Event) (s : State) : Result :=
  match e with
  | .instr => instructionStep s
  | .tick => .next s.tick
  | .start => .next s.hostStart
  | .pause => .next s.hostPause
  | .resume => .next s.hostResume
  | .step => .next s.hostStep
  | .stop => .next s.hostStop
  | .loadRom bytes => s.loadRom bytes
  | .setKey k p => .next (s.setKey k p)
  | .setThrottle d => .next (s.setThrottle d)
  | .read => .next s

/-- The next event: the first of `inputs`, or an instruction step when the environment gives none.
DESIGN CHOICE, safe: notes/assumptions/5.md. -/
def State.nextEvent (s : State) : Event := s.inputs.headD .instr

/-- The state with the next event taken from `inputs`. -/
def State.takeEvent (s : State) : State := { s with inputs := s.inputs.tail }

/-- Make an instruction step enabled and next: EXEC Running if it is neither Running nor Stepping, FAULT None, and an
instruction step before any event to come. The first part of withFetchWord. -/
def State.readied (s : State) : State :=
  { s with
    execState := if s.execState = .running ∨ s.execState = .stepping then s.execState else .running
    fault := none
    inputs := if s.inputs.isEmpty then [] else .instr :: s.inputs }

/-- Put a word where the next fetch reads it, high byte first (R64, R101). -/
def State.placeWord (s : State) (w : Word) : State := s.writeBytes s.pc [highByte w, lowByte w]

end Sys2Proof.Machine
end

