-- ==== Sys2Proof/Machine/Step.lean ====
section
/-! DEFINITION. One step of the machine: the next atomic event of R240. -/

namespace Sys2Proof.Machine

/-- One step: the next event, by default an instruction step (R107, R240). -/
def step (s : State) : Host.Outcome State Fault Refusal := runEvent s.nextEvent s.takeEvent

/-- `s` with the instruction of bits `w` (numbered as spec/opcode_table.json numbers them) where step fetches its next
instruction, and with what it takes for the very next step to run it. notes/assumptions/8.md. -/
def State.withFetchWord (s : State) (nbits w : Nat) : State := s.readied.placeWord (tableWord nbits w)

end Sys2Proof.Machine
end

