-- ==== Sys2Proof/Machine/Behaviour.lean ====
section
/-! DEFINITION. The infinite behaviours of the machine (R240): at each boundary the environment gives one event that is enabled
there, in any order, and the fairness of an infinite run. notes/assumptions/12.md. -/

namespace Sys2Proof.Machine

/-- The environment's turn at a boundary: it gives the next event, and the random byte a Cxnn would take (R107, R240, R248). -/
def State.offer (s : State) (e : Event) (r : Byte) : State := { s with inputs := [e], rnd := [r] }

/-- Whether an event is enabled at a boundary: an instruction step only while EXEC is Running or Stepping and FAULT is None, LoadRom
only while EXEC is Stopped (R254), and the rest at any boundary (R240). -/
def Event.EnabledIn (e : Event) (s : State) : Prop :=
  match e with
  | .instr => s.enabled = true
  | .loadRom _ => s.execState = .stopped
  | .tick | .start | .pause | .resume | .step | .stop | .setKey _ _ | .setThrottle _ | .read => True

/-- An infinite run: the state at each boundary, the event that occurs there, and the random byte supplied with it. -/
structure Behaviour where
  state : Nat → State
  event : Nat → Event
  draw : Nat → Byte

/-- Every event is enabled where it occurs, and each state is the step from the one before it (R240). -/
def Behaviour.Admitted (b : Behaviour) : Prop :=
  ∀ n : Nat, (b.event n).EnabledIn (b.state n) ∧ step ((b.state n).offer (b.event n) (b.draw n)) = .next (b.state (n + 1))

/-- EXEC is Running at every boundary from the `m`-th on. -/
def Behaviour.StaysRunning (b : Behaviour) (m : Nat) : Prop := ∀ n : Nat, m ≤ n → (b.state n).execState = .running

/-- An event occurs infinitely often. -/
def Behaviour.InfinitelyOften (b : Behaviour) (e : Event) : Prop := ∀ k : Nat, ∃ n : Nat, k ≤ n ∧ b.event n = e

/-- Fairness: if EXEC stays Running from some point on, instruction steps and ticks each occur infinitely often (R240). -/
def Behaviour.Fair (b : Behaviour) : Prop :=
  ∀ m : Nat, b.StaysRunning m → b.InfinitelyOften .instr ∧ b.InfinitelyOften .tick

end Sys2Proof.Machine
end

