-- ==== Sys2Proof/Safety.lean ====
section
/-! DEFINITION. The terms claims are stated in: the invariant of R46, and the frame of an instruction (which parts of the state it
leaves as they were). -/

namespace Sys2Proof.Machine

/-- The invariants of R46 that the types of State do not already give: memory in its canonical form, PC, I and every stack slot
below 0x1000, and FAULT ≠ None only while Stopped (R23, R24, R25, R36). -/
abbrev State.Inv (s : State) : Prop :=
  Memory.wf s.cfg.font s.mem = true ∧ s.pc.toNat < 0x1000 ∧ s.i.toNat < 0x1000 ∧
    (∀ k : Fin 16, s.stack[k].toNat < 0x1000) ∧ (s.fault ≠ none → s.execState = .stopped)

/-- The parts of the state, by the names of R20; `env` is the model's own fields but the outputs. -/
inductive Part where
  | mem
  | v
  | i
  | pc
  | stack
  | sp
  | dt
  | st
  | key
  | fb
  | opcode
  | execState
  | fault
  | cfg
  | env
  | outputs
  deriving DecidableEq, Repr

/-- A part is the same in two states. Memory is compared through the model's read of one byte, at every address. -/
def Part.Same (p : Part) (s t : State) : Prop :=
  match p with
  | .mem => ∀ a : Word, t.readByte a = s.readByte a
  | .v => ∀ r : RegIx, t.getV r = s.getV r
  | .i => t.i = s.i
  | .pc => t.pc = s.pc
  | .stack => t.stack = s.stack
  | .sp => t.sp = s.sp
  | .dt => t.dt = s.dt
  | .st => t.st = s.st
  | .key => t.key = s.key
  | .fb => t.fb = s.fb
  | .opcode => t.opcode = s.opcode
  | .execState => t.execState = s.execState
  | .fault => t.fault = s.fault
  | .cfg => t.cfg = s.cfg
  | .env => t.rnd = s.rnd ∧ t.draws = s.draws ∧ t.inputs = s.inputs
  | .outputs => t.outputs = s.outputs

/-- Every part but the listed ones is the same in `t` as in `s`. -/
def UnchangedBut (changed : List Part) (s t : State) : Prop := ∀ p : Part, p ∉ changed → p.Same s t

/-- Every general register but the listed ones is the same in `t` as in `s`. -/
def RegsUnchangedBut (changed : List RegIx) (s t : State) : Prop := ∀ r : RegIx, r ∉ changed → t.getV r = s.getV r

/-- Every byte of memory outside the `n` bytes from `a` on, each address wrapped on its own (R61), is the same in `t` as in `s`. -/
def MemUnchangedOutside (a : Word) (n : Nat) (s t : State) : Prop :=
  ∀ b : Word, (∀ k : Nat, k < n → wrap12 b ≠ wrap12 (a + BitVec.ofNat 16 k)) → t.readByte b = s.readByte b

/-- exec answers a next state, and it is as `post` says. -/
def Answers (i : Instr) (s : State) (post : State → Prop) : Prop := ∃ t : State, exec i s = .next t ∧ post t

/-- step answers a next state, and it is as `post` says. -/
def StepAnswers (s : State) (post : State → Prop) : Prop := ∃ t : State, step s = .next t ∧ post t

/-- An outcome with its next state, if it has one, changed by `f`. -/
def mapNext (f : State → State) : Result → Result
  | .next t => .next (f t)
  | .fault e => .fault e
  | .refused r => .refused r

/-- Taking the fatal error `kind`, seen from outside: FAULT and EXEC as R222 says, and nothing else changed. -/
def TakesError (kind : FatalError) (s t : State) : Prop :=
  t.fault = some kind ∧ t.execState = .stopped ∧ UnchangedBut [.fault, .execState] s t

/-- Whether the sprite that Dxyn would draw has a set bit over FB[row][col], without running the draw (R191, R192): the row and
the column are counted from (V[x] mod 64, V[y] mod 32), each wrapped on its own, and bit 7 is the leftmost pixel. -/
def State.spriteOver (s : State) (x y : RegIx) (n : Nibble) (row col : Nat) : Bool :=
  let r := (row + (32 - (s.getV y).toNat % 32)) % 32
  let c := (col + (64 - (s.getV x).toNat % 64)) % 64
  decide (r < n.toNat) && decide (c < 8) && (s.readByte (s.i + BitVec.ofNat 16 r)).getLsbD (7 - c)

end Sys2Proof.Machine
end

