-- ==== Sys2Proof/Certificates/Slice0/Obligations.lean ====
section
/-! DEFINITION. The statements for the provers. Each docstring names the rule of spec/ it formalises. `Answers i s post` says that
exec i s ANSWERS A NEXT STATE as `post` says, so every statement of that form is a completion statement. -/

open Sys2Proof Sys2Proof.Machine

/-! ### Encoding (30_encoding.md) -/

/-- Decoding the bytes of any instruction gives that instruction back, with every operand at every value, and leaves the bytes
after it (R81, R82, R91). -/
def Obligations.DecodeOfEncodeIsIdentity : Prop :=
  ∀ (i : Instr) (rest : List Byte), decode (encodeBytes i ++ rest) = .ok (i, rest)

/-- A word that decodes is the encoding of the instruction it decodes to, so no two words are one instruction (R82, R84). -/
def Obligations.EncodeOfDecodeIsIdentity : Prop :=
  ∀ (w : Word) (i : Instr), decodeWord w = .ok i → encode i = w

/-- A word decodes as an instruction exactly when (w & mask) = match for that instruction's row of R84; the spec's decision D5
is that every fixed digit counts. -/
def Obligations.WordDecodesExactlyWhenRowMatches : Prop :=
  ∀ (w : Word) (j : Instr), (∃ i, decodeWord w = .ok i ∧ i.row = j.row) ↔ w &&& j.row.mask = j.row.pattern

/-- There are 34 rows and at most one matches any word (R80, R84). -/
def Obligations.OpcodeRowsAreDisjoint : Prop :=
  opcodeRows.length = 34 ∧
    ∀ (w : Word) (r q : OpcodeRow), r ∈ opcodeRows → q ∈ opcodeRows → r.admits w = true → q.admits w = true → r = q

/-- The invalid words are exactly the six classes of R86, each rejected by its own name (the classes are R86's; the names of the
rejections are the model's). -/
def Obligations.InvalidWordsAreExactlyTheListedOnes : Prop :=
  ∀ w : Word,
    (decodeWord w = .error .invalid0nnn ↔ w.toNat / 4096 = 0x0 ∧ w ≠ 0x00E0#16 ∧ w ≠ 0x00EE#16) ∧
    (decodeWord w = .error .invalid5xyN ↔ w.toNat / 4096 = 0x5 ∧ w.toNat % 16 ≠ 0) ∧
    (decodeWord w = .error .invalid8xyN ↔ w.toNat / 4096 = 0x8 ∧ w.toNat % 16 ∈ [0x8, 0x9, 0xA, 0xB, 0xC, 0xD, 0xF]) ∧
    (decodeWord w = .error .invalid9xyN ↔ w.toNat / 4096 = 0x9 ∧ w.toNat % 16 ≠ 0) ∧
    (decodeWord w = .error .invalidExNN ↔ w.toNat / 4096 = 0xE ∧ w.toNat % 256 ∉ [0x9E, 0xA1]) ∧
    (decodeWord w = .error .invalidFxNN ↔
      w.toNat / 4096 = 0xF ∧ w.toNat % 256 ∉ [0x07, 0x0A, 0x15, 0x18, 0x1E, 0x29, 0x33, 0x55, 0x65]) ∧
    decodeWord w ≠ .error .tooFewBytes

/-- A few words written out from R84 decode to the instructions they stand for, one of each family. -/
def Obligations.SampleWordsDecode : Prop :=
  decodeWord 0x00E0#16 = .ok .cls ∧ decodeWord 0x00EE#16 = .ok .ret ∧ decodeWord 0x1ABC#16 = .ok (.jp 0xABC#12) ∧
  decodeWord 0x3342#16 = .ok (.seImm 0x3#4 0x42#8) ∧ decodeWord 0x8AB4#16 = .ok (.addReg 0xA#4 0xB#4) ∧
  decodeWord 0xA300#16 = .ok (.ldI 0x300#12) ∧ decodeWord 0xD125#16 = .ok (.drw 0x1#4 0x2#4 0x5#4) ∧
  decodeWord 0xE3A1#16 = .ok (.sknp 0x3#4) ∧ decodeWord 0xFA33#16 = .ok (.ldBVx 0xA#4)

/-! ### The instruction cycle (40_cycle.md) -/

/-- When the two bytes at PC decode to an instruction, an enabled instruction step is exec of it on the fetched state, completed
(R103, R106, R107). The event taken from `inputs` is the model's own (log entry 5). -/
def Obligations.StepRunsDecodedInstruction : Prop :=
  ∀ (s : State) (i : Instr), s.enabled = true → s.nextEvent = .instr →
    decode [s.readByte s.pc, s.readByte (s.pc + 1#16)] = .ok (i, []) →
      step s = mapNext State.complete (exec i s.takeEvent.fetch) ∧
      UnchangedBut [.opcode, .pc] s.takeEvent s.takeEvent.fetch ∧
      s.takeEvent.fetch.pc.toNat = (s.pc.toNat + 2) % 0x1000 ∧
      UnchangedBut [.env] s s.takeEvent ∧ s.takeEvent.inputs = s.inputs.tail ∧
      s.takeEvent.rnd = s.rnd ∧ s.takeEvent.draws = s.draws

/-- Fetch latches the big-endian word at PC, whose second byte wraps to 0x000 when PC is 0xFFF (R101). -/
def Obligations.FetchLatchesBigEndianWord : Prop :=
  ∀ s : State,
    s.fetch.opcode.toNat = 256 * (s.readByte s.pc).toNat + (s.readByte (s.pc + 1#16)).toNat ∧
    (s.pc = 0xFFF#16 → s.readByte (s.pc + 1#16) = s.readByte 0x000#16)

/-- Completion: Stepping becomes Paused, Running stays Running, and a step that raised a fault leaves Stopped (R106). -/
def Obligations.CompletionReturnsSteppingToPaused : Prop :=
  ∀ (s : State) (i : Instr), s.enabled = true → s.nextEvent = .instr → decodeWord s.fetchWord = .ok i →
    StepAnswers s fun t =>
      (t.fault = none → s.execState = .stepping → t.execState = .paused) ∧
      (t.fault = none → s.execState = .running → t.execState = .running) ∧
      (t.fault ≠ none → t.execState = .stopped)

/-- A word that is no instruction takes InvalidOpcode: OPCODE holds it, PC its address plus 2, FAULT and EXEC are set, and nothing
else changes (R102, R103, R221, R222; what a fatal error leaves is the spec's decision D15, its code D14). -/
def Obligations.InvalidWordTakesInvalidOpcode : Prop :=
  ∀ (s : State) (r : Reject), s.enabled = true → s.nextEvent = .instr → decodeWord s.fetchWord = .error r →
    StepAnswers s fun t =>
      t.fault = some .invalidOpcode ∧ t.execState = .stopped ∧ t.opcode = s.fetchWord ∧
      t.pc.toNat = (s.pc.toNat + 2) % 0x1000 ∧ UnchangedBut [.fault, .execState, .opcode, .pc] s.takeEvent t

/-- In Stopped and in Paused, and while FAULT is set, no instruction executes: an instruction step changes nothing (R100; that it
is then a step without effect is the model's reading, log entry 7). -/
def Obligations.DisabledStepExecutesNothing : Prop :=
  ∀ s : State, s.nextEvent = .instr →
    (s.execState = .stopped ∨ s.execState = .paused ∨ s.fault ≠ none) → step s = .next s.takeEvent

/-- A byte stored by Fx55 over the next instruction is fetched by it (R71, the spec's decision D22; R286). -/
def Obligations.StoredByteIsFetchedNext : Prop :=
  ∀ (s : State) (x : RegIx) (k : Nat), Memory.wf s.cfg.font s.mem = true → k ≤ x.toNat →
    wrap12 s.pc = wrap12 (s.i + BitVec.ofNat 16 k) →
      Answers (.ldMemVx x) s fun t =>
        highByte t.fetchWord = s.getV (BitVec.ofNat 4 k) ∧
        (k < x.toNat → lowByte t.fetchWord = s.getV (BitVec.ofNat 4 (k + 1)))

/-! ### Control transfer and skips (41_flow.md) -/

/-- 1nnn sets PC to nnn and changes nothing else (R122). -/
def Obligations.JpSetsPc : Prop :=
  ∀ (nnn : Addr) (s : State), (encode (.jp nnn)).toNat = 0x1000 + nnn.toNat ∧
    Answers (.jp nnn) s fun t => t.pc.toNat = nnn.toNat ∧ UnchangedBut [.pc] s t

/-- 2nnn with room pushes PC and jumps; with SP = 16 it takes StackOverflow (R123; what the error sets is the spec's decision D15). -/
def Obligations.CallPushesOrOverflows : Prop :=
  ∀ (nnn : Addr) (s : State),
    (∀ h : s.sp.val < 16, Answers (.call nnn) s fun t =>
      t.stack[s.sp.val] = s.pc ∧ (∀ k : Fin 16, k.val ≠ s.sp.val → t.stack[k] = s.stack[k]) ∧
      t.sp.val = s.sp.val + 1 ∧ t.pc.toNat = nnn.toNat ∧ UnchangedBut [.stack, .sp, .pc] s t) ∧
    (s.sp.val = 16 → Answers (.call nnn) s fun t => TakesError .stackOverflow s t)

/-- 00EE with a slot occupied pops it into PC and does not clear it; with SP = 0 it takes StackUnderflow (R121; what the error sets
is the spec's decision D15). -/
def Obligations.RetPopsOrUnderflows : Prop :=
  ∀ s : State,
    (∀ h : 0 < s.sp.val, Answers .ret s fun t =>
      t.sp.val = s.sp.val - 1 ∧ t.pc = wrap12 (s.stack[s.sp.val - 1]'(by omega)) ∧ UnchangedBut [.sp, .pc] s t) ∧
    (s.sp.val = 0 → Answers .ret s fun t => TakesError .stackUnderflow s t)

/-- A call and then a return, whatever ran between that kept STACK and SP: PC is what it was after the call's fetch, and SP is
what it was (R121, R123). -/
def Obligations.ReturnGoesBackToCaller : Prop :=
  ∀ (nnn : Addr) (s t u : State), s.sp.val < 16 → exec (.call nnn) s = .next t → u.stack = t.stack → u.sp = t.sp →
    Answers .ret u fun r => r.pc = wrap12 s.pc ∧ r.sp = s.sp

/-- 3xnn and 4xnn skip exactly when V[x] equals, or differs from, nn; they change PC alone (R124, R125; a skip adds 2, the spec's
decision D36, R120, wrapped, its decision D1). -/
def Obligations.ImmediateSkips : Prop :=
  ∀ (x : RegIx) (nn : Byte) (s : State),
    (encode (.seImm x nn)).toNat = 0x3000 + 256 * x.toNat + nn.toNat ∧
    (encode (.sneImm x nn)).toNat = 0x4000 + 256 * x.toNat + nn.toNat ∧
    Answers (.seImm x nn) s (fun t =>
      t.pc.toNat = (if s.getV x = nn then (s.pc.toNat + 2) % 0x1000 else s.pc.toNat) ∧ UnchangedBut [.pc] s t) ∧
    Answers (.sneImm x nn) s (fun t =>
      t.pc.toNat = (if s.getV x ≠ nn then (s.pc.toNat + 2) % 0x1000 else s.pc.toNat) ∧ UnchangedBut [.pc] s t)

/-- 5xy0 and 9xy0 skip exactly when V[x] equals, or differs from, V[y]; they change PC alone (R126, R127; a skip adds 2, the spec's
decision D36, R120, wrapped, its decision D1). -/
def Obligations.RegisterSkips : Prop :=
  ∀ (x y : RegIx) (s : State),
    (encode (.seReg x y)).toNat = 0x5000 + 256 * x.toNat + 16 * y.toNat ∧
    (encode (.sneReg x y)).toNat = 0x9000 + 256 * x.toNat + 16 * y.toNat ∧
    Answers (.seReg x y) s (fun t =>
      t.pc.toNat = (if s.getV x = s.getV y then (s.pc.toNat + 2) % 0x1000 else s.pc.toNat) ∧ UnchangedBut [.pc] s t) ∧
    Answers (.sneReg x y) s (fun t =>
      t.pc.toNat = (if s.getV x ≠ s.getV y then (s.pc.toNat + 2) % 0x1000 else s.pc.toNat) ∧ UnchangedBut [.pc] s t)

/-- Bnnn jumps to nnn + V0, or to nnn + V[nnn[11:8]] under JumpQuirk, wrapped (R128). -/
def Obligations.JpV0AddsRegister : Prop :=
  ∀ (nnn : Addr) (s : State), (encode (.jpV0 nnn)).toNat = 0xB000 + nnn.toNat ∧
    Answers (.jpV0 nnn) s fun t =>
      t.pc.toNat =
        (nnn.toNat + (s.getV (if s.cfg.quirks.jump then BitVec.ofNat 4 (nnn.toNat / 256) else 0x0#4)).toNat) % 0x1000 ∧
      UnchangedBut [.pc] s t

/-! ### Register loads and ALU (42_alu.md) -/

/-- 6xnn, 7xnn and 8xy0 write V[x] alone, with no flag (R141, R142, R143). -/
def Obligations.LoadsAndAddImmediate : Prop :=
  ∀ (x y : RegIx) (nn : Byte) (s : State),
    (encode (.ldImm x nn)).toNat = 0x6000 + 256 * x.toNat + nn.toNat ∧
    (encode (.addImm x nn)).toNat = 0x7000 + 256 * x.toNat + nn.toNat ∧
    (encode (.ldReg x y)).toNat = 0x8000 + 256 * x.toNat + 16 * y.toNat ∧
    Answers (.ldImm x nn) s (fun t => t.getV x = nn ∧ RegsUnchangedBut [x] s t ∧ UnchangedBut [.v] s t) ∧
    Answers (.addImm x nn) s (fun t =>
      (t.getV x).toNat = ((s.getV x).toNat + nn.toNat) % 256 ∧ RegsUnchangedBut [x] s t ∧ UnchangedBut [.v] s t) ∧
    Answers (.ldReg x y) s (fun t => t.getV x = s.getV y ∧ RegsUnchangedBut [x] s t ∧ UnchangedBut [.v] s t)

/-- 8xy1, 8xy2 and 8xy3: bit by bit OR, AND and XOR, and under LogicQuirk VF = 0 after the write of V[x], else VF untouched
(R144, R145, R146, R147). -/
def Obligations.LogicOperations : Prop :=
  ∀ (x y : RegIx) (s : State),
    let frame (t : State) : Prop :=
      (s.cfg.quirks.logic = true → t.getV vfIx = 0x00#8) ∧
      RegsUnchangedBut (if s.cfg.quirks.logic then [x, vfIx] else [x]) s t ∧ UnchangedBut [.v] s t
    let kept : Prop := s.cfg.quirks.logic = false ∨ x ≠ vfIx
    (encode (.orReg x y)).toNat = 0x8001 + 256 * x.toNat + 16 * y.toNat ∧
    (encode (.andReg x y)).toNat = 0x8002 + 256 * x.toNat + 16 * y.toNat ∧
    (encode (.xorReg x y)).toNat = 0x8003 + 256 * x.toNat + 16 * y.toNat ∧
    Answers (.orReg x y) s (fun t =>
      (kept → ∀ b < 8, (t.getV x).getLsbD b = ((s.getV x).getLsbD b || (s.getV y).getLsbD b)) ∧ frame t) ∧
    Answers (.andReg x y) s (fun t =>
      (kept → ∀ b < 8, (t.getV x).getLsbD b = ((s.getV x).getLsbD b && (s.getV y).getLsbD b)) ∧ frame t) ∧
    Answers (.xorReg x y) s (fun t =>
      (kept → ∀ b < 8, (t.getV x).getLsbD b = ((s.getV x).getLsbD b ^^ (s.getV y).getLsbD b)) ∧ frame t)

/-- 8xy4: the sum mod 256, then VF = 1 exactly when the exact sum exceeds 255; VF holds the flag when x = F (R148). -/
def Obligations.AddSetsCarry : Prop :=
  ∀ (x y : RegIx) (s : State),
    (encode (.addReg x y)).toNat = 0x8004 + 256 * x.toNat + 16 * y.toNat ∧
    Answers (.addReg x y) s fun t =>
      (x ≠ vfIx → (t.getV x).toNat = ((s.getV x).toNat + (s.getV y).toNat) % 256) ∧
      t.getV vfIx = (if (s.getV x).toNat + (s.getV y).toNat > 255 then 0x01#8 else 0x00#8) ∧
      RegsUnchangedBut [x, vfIx] s t ∧ UnchangedBut [.v] s t

/-- 8xy5 and 8xy7: the difference mod 256, then VF = 1 exactly when there is no borrow; VF holds the flag when x = F (R149, R152;
operands read first and VF written last, the spec's decision D3, R104 and R105, conflict C3). -/
def Obligations.SubtractSetsNoBorrow : Prop :=
  ∀ (x y : RegIx) (s : State),
    (encode (.sub x y)).toNat = 0x8005 + 256 * x.toNat + 16 * y.toNat ∧
    (encode (.subn x y)).toNat = 0x8007 + 256 * x.toNat + 16 * y.toNat ∧
    Answers (.sub x y) s (fun t =>
      (x ≠ vfIx → ((t.getV x).toNat : Int) = (((s.getV x).toNat : Int) - (s.getV y).toNat) % 256) ∧
      t.getV vfIx = (if (s.getV x).toNat ≥ (s.getV y).toNat then 0x01#8 else 0x00#8) ∧
      RegsUnchangedBut [x, vfIx] s t ∧ UnchangedBut [.v] s t) ∧
    Answers (.subn x y) s (fun t =>
      (x ≠ vfIx → ((t.getV x).toNat : Int) = (((s.getV y).toNat : Int) - (s.getV x).toNat) % 256) ∧
      t.getV vfIx = (if (s.getV y).toNat ≥ (s.getV x).toNat then 0x01#8 else 0x00#8) ∧
      RegsUnchangedBut [x, vfIx] s t ∧ UnchangedBut [.v] s t)

/-- 8xy6 and 8xyE: shift by one of V[x] under ShiftQuirk and of V[y] without it, then VF = the bit shifted out of the value
shifted (R151, R153; the source of the flag is the spec's decision D4, R150). -/
def Obligations.ShiftsMoveOutTheFlag : Prop :=
  ∀ (x y : RegIx) (s : State),
    let v : Nat := (s.getV (if s.cfg.quirks.shift then x else y)).toNat
    (encode (.shr x y)).toNat = 0x8006 + 256 * x.toNat + 16 * y.toNat ∧
    (encode (.shl x y)).toNat = 0x800E + 256 * x.toNat + 16 * y.toNat ∧
    Answers (.shr x y) s (fun t =>
      (x ≠ vfIx → (t.getV x).toNat = v / 2) ∧ (t.getV vfIx).toNat = v % 2 ∧
      RegsUnchangedBut [x, vfIx] s t ∧ UnchangedBut [.v] s t) ∧
    Answers (.shl x y) s (fun t =>
      (x ≠ vfIx → (t.getV x).toNat = 2 * v % 256) ∧ (t.getV vfIx).toNat = v / 128 ∧
      RegsUnchangedBut [x, vfIx] s t ∧ UnchangedBut [.v] s t)

/-- Cxnn: V[x] is the random byte masked by nn; the byte is the next one supplied, else a free value, and one byte is taken
(R154 and R248, the spec's decision D10; the form of the free value is the model's, log entry 4). -/
def Obligations.RandomByteIsMasked : Prop :=
  ∀ (x : RegIx) (nn : Byte) (s : State),
    (∀ (r : Byte) (rest : List Byte), s.rnd = r :: rest → Answers (.rnd x nn) s fun t =>
      t.getV x = r &&& nn ∧ t.rnd = rest ∧ t.draws = s.draws ∧ t.inputs = s.inputs ∧
      RegsUnchangedBut [x] s t ∧ UnchangedBut [.v, .env] s t) ∧
    (s.rnd = [] → Answers (.rnd x nn) s fun t =>
      t.getV x = Config.randomByte s.draws &&& nn ∧ t.rnd = [] ∧ t.draws = s.draws + 1 ∧ t.inputs = s.inputs ∧
      RegsUnchangedBut [x] s t ∧ UnchangedBut [.v, .env] s t)

/-! ### Index register and memory (43_index_memory.md) -/

/-- Annn sets I to nnn and changes nothing else (R171). -/
def Obligations.LdISetsIndex : Prop :=
  ∀ (nnn : Addr) (s : State), (encode (.ldI nnn)).toNat = 0xA000 + nnn.toNat ∧
    Answers (.ldI nnn) s fun t => t.i.toNat = nnn.toNat ∧ UnchangedBut [.i] s t

/-- Fx1E adds V[x] to I, wrapped, with no flag; Fx29 points I at the glyph of the full 8-bit V[x] (R172, the spec's decision D31;
R173, its decision D7). -/
def Obligations.AddToIndexAndGlyph : Prop :=
  ∀ (x : RegIx) (s : State),
    Answers (.addIVx x) s (fun t => t.i.toNat = (s.i.toNat + (s.getV x).toNat) % 0x1000 ∧ UnchangedBut [.i] s t) ∧
    Answers (.ldFVx x) s (fun t => t.i.toNat = 0x50 + 5 * (s.getV x).toNat ∧ UnchangedBut [.i] s t)

/-- Fx33 stores the three decimal digits of V[x] at I, I + 1 and I + 2, each address wrapped; nothing else changes (R174). -/
def Obligations.BcdStoresDigits : Prop :=
  ∀ (x : RegIx) (s : State),
    (encode (.ldBVx x)).toNat = 0xF033 + 256 * x.toNat ∧
    Answers (.ldBVx x) s fun t =>
      (Memory.wf s.cfg.font s.mem = true →
        (t.readByte s.i).toNat = (s.getV x).toNat / 100 ∧
        (t.readByte (s.i + 1#16)).toNat = (s.getV x).toNat / 10 % 10 ∧
        (t.readByte (s.i + 2#16)).toNat = (s.getV x).toNat % 10) ∧
      MemUnchangedOutside s.i 3 s t ∧ UnchangedBut [.mem] s t

/-- Fx55 stores V0..Vx from I on, each address wrapped, and adds x + 1 to I under LoadStoreQuirk only (R175). -/
def Obligations.StoreRegistersToMemory : Prop :=
  ∀ (x : RegIx) (s : State),
    (encode (.ldMemVx x)).toNat = 0xF055 + 256 * x.toNat ∧
    Answers (.ldMemVx x) s fun t =>
      (Memory.wf s.cfg.font s.mem = true →
        ∀ r : RegIx, r.toNat ≤ x.toNat → t.readByte (s.i + BitVec.ofNat 16 r.toNat) = s.getV r) ∧
      MemUnchangedOutside s.i (x.toNat + 1) s t ∧
      t.i = (if s.cfg.quirks.loadstore then wrap12 (s.i + BitVec.ofNat 16 (x.toNat + 1)) else s.i) ∧
      UnchangedBut [.mem, .i] s t

/-- Fx65 loads V0..Vx from I on, each address wrapped, and adds x + 1 to I under LoadStoreQuirk only (R176). -/
def Obligations.LoadRegistersFromMemory : Prop :=
  ∀ (x : RegIx) (s : State),
    (encode (.ldVxMem x)).toNat = 0xF065 + 256 * x.toNat ∧
    Answers (.ldVxMem x) s fun t =>
      (∀ r : RegIx, r.toNat ≤ x.toNat → t.getV r = s.readByte (s.i + BitVec.ofNat 16 r.toNat)) ∧
      (∀ r : RegIx, x.toNat < r.toNat → t.getV r = s.getV r) ∧
      t.i = (if s.cfg.quirks.loadstore then wrap12 (s.i + BitVec.ofNat 16 (x.toNat + 1)) else s.i) ∧
      UnchangedBut [.v, .i] s t

/-- Store, then load with the same x and the same I: V0..Vx are what they were before the store, whatever the registers held
between (R176's property; C16 on I under LoadStoreQuirk). -/
def Obligations.StoreThenLoadRoundTrip : Prop :=
  ∀ (x : RegIx) (s t u : State), Memory.wf s.cfg.font s.mem = true → exec (.ldMemVx x) s = .next t →
    u.mem = t.mem → u.cfg = t.cfg → u.i = s.i →
      Answers (.ldVxMem x) u fun w =>
        (∀ r : RegIx, r.toNat ≤ x.toNat → w.getV r = s.getV r) ∧
        (s.cfg.quirks.loadstore = false → w.i = s.i) ∧
        (s.cfg.quirks.loadstore = true → w.i.toNat = (s.i.toNat + x.toNat + 1) % 0x1000)

/-! ### Framebuffer (44_display.md) -/

/-- 00E0 sets every cell to 0, whatever it was, and changes no other part but the record of output events (R190). -/
def Obligations.ClsClearsEveryCell : Prop :=
  ∀ s : State, (encode .cls).toNat = 0x00E0 ∧
    Answers .cls s fun t =>
      (∀ row < 32, ∀ col < 64, t.fb.cell row col = false) ∧ UnchangedBut [.fb, .outputs] s t ∧
      t.outputs = s.outputs ++ [.frameDirty]

/-- Dxyn: every cell becomes its old value XOR the sprite's bit over it, both axes wrapped on their own; VF is 1 exactly when some
cell went from 1 to 0, else 0; nothing else changes but the record of output events (R191, the spec's decision D32; bit order R192,
its decision D8; operands read before VF is written, R104, D3). -/
def Obligations.DrawXorsSprite : Prop :=
  ∀ (x y : RegIx) (n : Nibble) (s : State),
    Answers (.drw x y n) s fun t =>
      (∀ row < 32, ∀ col < 64, t.fb.cell row col = (s.fb.cell row col ^^ s.spriteOver x y n row col)) ∧
      ((∃ row < 32, ∃ col < 64, s.fb.cell row col = true ∧ t.fb.cell row col = false) → t.getV vfIx = 0x01#8) ∧
      (¬ (∃ row < 32, ∃ col < 64, s.fb.cell row col = true ∧ t.fb.cell row col = false) → t.getV vfIx = 0x00#8) ∧
      RegsUnchangedBut [vfIx] s t ∧ UnchangedBut [.fb, .v, .outputs] s t

/-- Drawing a sprite, and then the same sprite at the same coordinates from the same memory, restores every cell; the second draw
sets VF = 1 exactly when the sprite has a set bit over a cell that was 0 before the first draw, so on a clear framebuffer exactly
when it has a set bit at all. This follows from R191; R193 words the VF clause for every framebuffer, where it does not follow from
R191 (log entry 16). -/
def Obligations.DrawingTwiceRestores : Prop :=
  ∀ (x y : RegIx) (n : Nibble) (s t u : State), exec (.drw x y n) s = .next t →
    u.fb = t.fb → u.getV x = s.getV x → u.getV y = s.getV y → u.i = s.i → (∀ a, u.readByte a = s.readByte a) →
      Answers (.drw x y n) u fun w =>
        w.fb = s.fb ∧
        (w.getV vfIx = 0x01#8 ↔ ∃ row < 32, ∃ col < 64, s.spriteOver x y n row col = true ∧ s.fb.cell row col = false) ∧
        (w.getV vfIx = 0x00#8 ∨ w.getV vfIx = 0x01#8) ∧
        (s.fb = Frame.clear →
          (w.getV vfIx = 0x01#8 ↔ ∃ r, r < n.toNat ∧ s.readByte (s.i + BitVec.ofNat 16 r) ≠ 0x00#8))

/-- What each instruction emits: frame-dirty by every 00E0 and Dxyn, beep-start by an Fx18 that takes ST from 0 to non-zero, and
nothing by any other (R108; R194, the spec's decision D28; R206 and R244, its decision D13; the record is the model's, log entry 6). -/
def Obligations.OutputEventsOfInstructions : Prop :=
  ∀ (i : Instr) (s t : State), exec i s = .next t →
    t.outputs = s.outputs ++
      (match i with
        | .cls => [Output.frameDirty]
        | .drw _ _ _ => [Output.frameDirty]
        | .ldStVx x => if s.st = 0x00#8 ∧ s.getV x ≠ 0x00#8 then [Output.beepStart (s.getV x)] else []
        | _ => [])

/-! ### Keypad and timers (45_keypad_timers.md) -/

/-- Ex9E and ExA1 skip exactly when key V[x] mod 16 is pressed, or is not; they change PC alone (R201, R202; the key index is the
spec's decision D6, R200). -/
def Obligations.KeySkips : Prop :=
  ∀ (x : RegIx) (s : State),
    let down : Bool := s.key[(s.getV x).toNat % 16]'(Nat.mod_lt _ (by decide))
    Answers (.skp x) s (fun t =>
      t.pc.toNat = (if down = true then (s.pc.toNat + 2) % 0x1000 else s.pc.toNat) ∧ UnchangedBut [.pc] s t) ∧
    Answers (.sknp x) s (fun t =>
      t.pc.toNat = (if down = false then (s.pc.toNat + 2) % 0x1000 else s.pc.toNat) ∧ UnchangedBut [.pc] s t)

/-- Fx0A with a key pressed writes the least pressed key; with none it takes PC back by 2 and changes nothing else (R203, the
spec's decision D20). -/
def Obligations.KeyWaitTakesLeastKeyOrRewinds : Prop :=
  ∀ (x : RegIx) (s : State),
    (∀ k : Fin 16, s.key[k] = true → (∀ j : Fin 16, j < k → s.key[j] = false) →
      Answers (.ldVxK x) s fun t => (t.getV x).toNat = k.val ∧ RegsUnchangedBut [x] s t ∧ UnchangedBut [.v] s t) ∧
    ((∀ k : Fin 16, s.key[k] = false) →
      Answers (.ldVxK x) s fun t => t.pc.toNat = (s.pc.toNat + 0xFFE) % 0x1000 ∧ UnchangedBut [.pc] s t)

/-- Fx07 reads DT into V[x]; Fx15 writes V[x] to DT (R204, R205). -/
def Obligations.DelayTimerMoves : Prop :=
  ∀ (x : RegIx) (s : State),
    (encode (.ldVxDt x)).toNat = 0xF007 + 256 * x.toNat ∧ (encode (.ldDtVx x)).toNat = 0xF015 + 256 * x.toNat ∧
    Answers (.ldVxDt x) s (fun t => t.getV x = s.dt ∧ RegsUnchangedBut [x] s t ∧ UnchangedBut [.v] s t) ∧
    Answers (.ldDtVx x) s (fun t => t.dt = s.getV x ∧ UnchangedBut [.dt] s t)

/-- Fx18 writes V[x] to ST, and emits beep-start with that value exactly when ST was 0 and the value is not (R206, the spec's
decision D13; the record of events is the model's, log entry 6). -/
def Obligations.SoundTimerWrite : Prop :=
  ∀ (x : RegIx) (s : State),
    Answers (.ldStVx x) s fun t =>
      t.st = s.getV x ∧ UnchangedBut [.st, .outputs] s t ∧
      (s.st = 0x00#8 → s.getV x ≠ 0x00#8 → t.outputs = s.outputs ++ [.beepStart (s.getV x)]) ∧
      ((s.st ≠ 0x00#8 ∨ s.getV x = 0x00#8) → t.outputs = s.outputs)

/-! ### Ticks, the host and the controller (60_exceptions.md, 70_reset_and_hazards.md) -/

/-- A tick while Running takes DT and ST one toward 0 and emits beep-end exactly when ST goes from 1 to 0; in every other state it
changes nothing (R242, the spec's decision D12; the event list and the record of outputs are the model's, log entries 5 and 6). -/
def Obligations.TickDecaysTimers : Prop :=
  ∀ (s : State) (rest : List Event), s.inputs = .tick :: rest →
    StepAnswers s fun t =>
      t.inputs = rest ∧ t.rnd = s.rnd ∧ t.draws = s.draws ∧ UnchangedBut [.dt, .st, .outputs, .env] s t ∧
      (s.execState = .running → t.dt.toNat = s.dt.toNat - 1 ∧ t.st.toNat = s.st.toNat - 1 ∧
        t.outputs = s.outputs ++ (if s.st = 0x01#8 then [.beepEnd] else [])) ∧
      (s.execState ≠ .running → t.dt = s.dt ∧ t.st = s.st ∧ t.outputs = s.outputs)

/-- After any number of ticks while Running, DT and ST are what they were less that number, never below 0, and beep-end was emitted
once if ST has reached 0 from above it, else never (R243). -/
def Obligations.TicksCountDownToZero : Prop :=
  ∀ (s : State) (n : Nat), s.execState = .running →
    (State.tick^[n] s).dt.toNat = s.dt.toNat - n ∧ (State.tick^[n] s).st.toNat = s.st.toNat - n ∧
    (State.tick^[n] s).outputs = s.outputs ++ (if 1 ≤ s.st.toNat ∧ s.st.toNat ≤ n then [.beepEnd] else [])

/-- The controller's table: Start, Pause, Resume and Step in every state of EXEC, with every combination not listed ignored (R229 to
R233, the spec's decision D16). -/
def Obligations.ControllerTable : Prop :=
  ∀ (s : State) (c : Event) (rest : List Event), s.inputs = c :: rest → c ∈ [Event.start, .pause, .resume, .step] →
    StepAnswers s fun t =>
      t.execState =
        (match c, s.execState with
          | .start, .stopped => if s.fault = none then .running else .stopped
          | .pause, .running => .paused
          | .resume, .paused => .running
          | .step, .paused => .stepping
          | _, e => e) ∧
      t.inputs = rest ∧ t.rnd = s.rnd ∧ t.draws = s.draws ∧ UnchangedBut [.execState, .env] s t

/-- Stop, in every state, is the reset of R280: every element of the state vector at its reset value, FAULT cleared, the parameters
unchanged, no output event (R234, the spec's decision D17; R280, its decision D29). -/
def Obligations.StopResets : Prop :=
  ∀ (s : State) (rest : List Event), s.inputs = .stop :: rest →
    StepAnswers s fun t =>
      UnchangedBut [.cfg, .env, .outputs] (State.resetWith s.cfg) t ∧ t.mem = [] ∧
      t.cfg = s.cfg ∧ t.outputs = s.outputs ∧ t.inputs = rest ∧ t.rnd = s.rnd ∧ t.draws = s.draws

/-- LoadRom: refused while not Stopped; more than 3584 bytes gives RomTooLarge and no change; else a reset, the bytes from 0x200 on,
the rest of memory as at reset, Ok, and EXEC Stopped (R254, the spec's decision D18; the refusal is the model's, log entry 10). -/
def Obligations.LoadRomLoads : Prop :=
  ∀ (s : State) (bytes : List Byte) (rest : List Event), s.inputs = .loadRom bytes :: rest →
    (s.execState ≠ .stopped → step s = .refused .loadRomNotStopped) ∧
    (s.execState = .stopped → 3584 < bytes.length → StepAnswers s fun t =>
      t.outputs = s.outputs ++ [.romTooLarge] ∧ t.inputs = rest ∧ t.rnd = s.rnd ∧ t.draws = s.draws ∧
      UnchangedBut [.outputs, .env] s t) ∧
    (s.execState = .stopped → bytes.length ≤ 3584 → StepAnswers s fun t =>
      (∀ (k : Nat) (h : k < bytes.length), t.readByte (0x200#16 + BitVec.ofNat 16 k) = bytes[k]) ∧
      MemUnchangedOutside 0x200#16 bytes.length (State.resetWith s.cfg) t ∧
      UnchangedBut [.mem, .cfg, .env, .outputs] (State.resetWith s.cfg) t ∧ t.cfg = s.cfg ∧
      t.outputs = s.outputs ++ [.loadOk] ∧ t.inputs = rest ∧ t.rnd = s.rnd ∧ t.draws = s.draws)

/-- SetKey, in every state of EXEC, sets one key and changes nothing else; a read changes nothing (R246, the spec's decision D19;
R252, R258). -/
def Obligations.SetKeySetsOneKey : Prop :=
  ∀ (s : State) (rest : List Event),
    (∀ (k : KeyIx) (p : Bool), s.inputs = .setKey k p :: rest → StepAnswers s fun t =>
      (∀ j : KeyIx, t.keyDown j = if j = k then p else s.keyDown j) ∧
      t.inputs = rest ∧ t.rnd = s.rnd ∧ t.draws = s.draws ∧ UnchangedBut [.key, .env] s t) ∧
    (s.inputs = .read :: rest → StepAnswers s fun t =>
      t.inputs = rest ∧ t.rnd = s.rnd ∧ t.draws = s.draws ∧ UnchangedBut [.env] s t)

/-- THROTTLE has no semantic effect: a machine with another throttle does the same at every step, but for the throttle itself
(R43, R290, the spec's decision D26). -/
def Obligations.ThrottleHasNoEffect : Prop :=
  ∀ (s : State) (delay : Nat), (∀ d, s.nextEvent ≠ .setThrottle d) →
    step (s.setThrottle delay) = mapNext (fun t => t.setThrottle delay) (step s)

/-- Reset: every element of the state vector at the value of R280, for every Q, FONT and THROTTLE (the spec's decision D29 for KEY,
FB, OPCODE and STACK). -/
def Obligations.ResetValues : Prop :=
  ∀ cfg : Config,
    let s := State.resetWith cfg
    (∀ a : Nat, a < 0x1000 →
      s.readByte (BitVec.ofNat 16 a) = if h : 0x50 ≤ a ∧ a < 0xA0 then cfg.font[a - 0x50] else 0x00#8) ∧
    (∀ r, s.getV r = 0x00#8) ∧ s.i = 0x000#16 ∧ s.pc = 0x200#16 ∧ (∀ k : Fin 16, s.stack[k] = 0x0000#16) ∧ s.sp.val = 0 ∧
    s.dt = 0x00#8 ∧ s.st = 0x00#8 ∧ (∀ k, s.keyDown k = false) ∧
    (∀ row < 32, ∀ col < 64, s.fb.cell row col = false) ∧ s.opcode = 0x0000#16 ∧ s.execState = .stopped ∧
    s.fault = none ∧ s.cfg = cfg

/-! ### The whole machine -/

/-- Every step keeps the invariant: memory in its canonical form, PC, I and the stack slots below 0x1000, FAULT only while Stopped
(R23, R24, R46). -/
def Obligations.StepKeepsInvariant : Prop :=
  ∀ s t : State, s.Inv → step s = .next t → t.Inv

/-- The invariant holds after reset, for every Q, FONT and THROTTLE. -/
def Obligations.ResetMeetsInvariant : Prop := State.reset.Inv ∧ ∀ cfg : Config, (State.resetWith cfg).Inv

/-- Every step answers a next state, but for a LoadRom event while not Stopped, which is refused: no instruction faults the
machine or is refused (R61, R220; log entries 9 and 10). -/
def Obligations.StepAlwaysAnswers : Prop :=
  ∀ s : State,
    (∃ t, step s = .next t) ∨
    (∃ bytes, s.nextEvent = .loadRom bytes ∧ s.execState ≠ .stopped ∧ step s = .refused .loadRomNotStopped)

/-- Q and FONT are fixed for the run: no event changes them (R38, the spec's decision D25; R251). -/
def Obligations.QuirksAndFontNeverChange : Prop :=
  ∀ s t : State, step s = .next t → t.cfg.quirks = s.cfg.quirks ∧ t.cfg.font = s.cfg.font

/-- A fatal error stays until a reset: in a faulted state of EXEC Stopped, no event but Stop and LoadRom clears FAULT or leaves
Stopped (R226, R230, the spec's decisions D15 and D16). -/
def Obligations.FaultStaysUntilReset : Prop :=
  ∀ s t : State, s.fault ≠ none → s.execState = .stopped → step s = .next t →
    (t.fault = s.fault ∧ t.execState = .stopped) ∨ s.nextEvent = .stop ∨ ∃ bytes, s.nextEvent = .loadRom bytes

/-- No instruction raises a fatal error but 2nnn with SP = 16 and 00EE with SP = 0 (R221), and no instruction changes EXEC
otherwise (R33, R34). -/
def Obligations.OnlyCallAndRetRaise : Prop :=
  ∀ (i : Instr) (s t : State), exec i s = .next t → t.fault ≠ s.fault ∨ t.execState ≠ s.execState →
    (∃ nnn, i = .call nnn ∧ s.sp.val = 16) ∨ (i = .ret ∧ s.sp.val = 0)

/-- No instruction writes KEY, Q, FONT, THROTTLE or OPCODE, or takes an event of the environment (R29, R33). -/
def Obligations.NoInstructionReachesHostState : Prop :=
  ∀ (i : Instr) (s t : State), exec i s = .next t →
    t.key = s.key ∧ t.cfg = s.cfg ∧ t.opcode = s.opcode ∧ t.inputs = s.inputs

/-- The only writers of MEM, FB, STACK, DT and ST among the instructions (R25, R27, R28, R30, R62). -/
def Obligations.WritersOfMemoryAndDevices : Prop :=
  ∀ (i : Instr) (s t : State), exec i s = .next t →
    (t.mem ≠ s.mem → ∃ x, i = .ldBVx x ∨ i = .ldMemVx x) ∧
    (t.fb ≠ s.fb → i = .cls ∨ ∃ x y n, i = .drw x y n) ∧
    (t.stack ≠ s.stack → ∃ nnn, i = .call nnn) ∧
    (t.sp ≠ s.sp → i = .ret ∨ ∃ nnn, i = .call nnn) ∧
    (t.dt ≠ s.dt → ∃ x, i = .ldDtVx x) ∧ (t.st ≠ s.st → ∃ x, i = .ldStVx x)

/-- The only writers of I: Annn, Fx1E, Fx29, and Fx55 and Fx65 under LoadStoreQuirk (R24, R42). -/
def Obligations.WritersOfIndex : Prop :=
  ∀ (i : Instr) (s t : State), exec i s = .next t → t.i ≠ s.i →
    (∃ nnn, i = .ldI nnn) ∨ (∃ x, i = .addIVx x ∨ i = .ldFVx x) ∨
    (s.cfg.quirks.loadstore = true ∧ ∃ x, i = .ldMemVx x ∨ i = .ldVxMem x)

/-- The only instructions that change VF: those that write it as a flag, and those that name it as a destination (R22;
LogicQuirk, R41 and R147). -/
def Obligations.WritersOfVf : Prop :=
  ∀ (i : Instr) (s t : State), exec i s = .next t → t.getV vfIx ≠ s.getV vfIx →
    (∃ x y, i = .addReg x y ∨ i = .sub x y ∨ i = .subn x y ∨ i = .shr x y ∨ i = .shl x y) ∨ (∃ x y n, i = .drw x y n) ∨
    (s.cfg.quirks.logic = true ∧ ∃ x y, i = .orReg x y ∨ i = .andReg x y ∨ i = .xorReg x y) ∨
    (∃ nn, i = .ldImm vfIx nn ∨ i = .addImm vfIx nn ∨ i = .rnd vfIx nn) ∨
    (∃ y, i = .ldReg vfIx y ∨ i = .orReg vfIx y ∨ i = .andReg vfIx y ∨ i = .xorReg vfIx y) ∨
    i = .ldVxDt vfIx ∨ i = .ldVxK vfIx ∨ i = .ldVxMem vfIx

/-- Only jumps, calls, returns, skips and the key wait change PC beyond the fetch increment (R23). -/
def Obligations.WritersOfPc : Prop :=
  ∀ (i : Instr) (s t : State), exec i s = .next t → t.pc ≠ s.pc →
    (∃ nnn, i = .jp nnn ∨ i = .call nnn ∨ i = .jpV0 nnn) ∨ i = .ret ∨
    (∃ x nn, i = .seImm x nn ∨ i = .sneImm x nn) ∨ (∃ x y, i = .seReg x y ∨ i = .sneReg x y) ∨
    (∃ x, i = .skp x ∨ i = .sknp x) ∨ (∃ x, i = .ldVxK x ∧ ∀ k : Fin 16, s.key[k] = false)

/-! ### Infinite behaviours (R240) -/

/-- The model admits every interleaving: whatever enabled event, with whatever random byte, an environment picks at each boundary,
there is an admitted behaviour from any state that follows it (R240, the spec's decision D11). -/
def Obligations.EveryInterleavingIsABehaviour : Prop :=
  ∀ (s : State) (pick : Nat → State → Event × Byte), (∀ n t, (pick n t).1.EnabledIn t) →
    ∃ b : Behaviour, b.Admitted ∧ b.state 0 = s ∧ ∀ n, (b.event n, b.draw n) = pick n (b.state n)

/-- In a fair behaviour that stays Running from some boundary on, where no Fx15 and no Fx18 is executed from there on, both timers
reach 0 and stay there, whatever the number of instructions between two ticks (R240, R242, the spec's decisions D11 and D12). -/
def Obligations.FairBehaviourRunsTimersOut : Prop :=
  ∀ (b : Behaviour) (m : Nat), b.Admitted → b.Fair → b.StaysRunning m →
    (∀ n : Nat, m ≤ n → b.event n = .instr →
      ∀ x : RegIx, decodeWord (b.state n).fetchWord ≠ .ok (.ldDtVx x) ∧ decodeWord (b.state n).fetchWord ≠ .ok (.ldStVx x)) →
    ∃ k : Nat, m ≤ k ∧ ∀ n : Nat, k ≤ n → (b.state n).dt = 0x00#8 ∧ (b.state n).st = 0x00#8
end

