-- ==== Sys2Proof/Laws/Decode.lean ====
section
/-! SUPPORT. Encoded words and their fields as numbers; fields of encoded words; words rebuilt from their fields and bytes. -/

namespace Sys2Proof

theorem toNat_append_eq {m k : Nat} (a : BitVec m) (b : BitVec k) : (a ++ b).toNat = a.toNat * 2 ^ k + b.toNat := by
  rw [BitVec.toNat_append, ← Nat.shiftLeft_add_eq_or_of_lt b.isLt, Nat.shiftLeft_eq]

section
variable (op x y n : BitVec 4) (nn hi lo : Byte) (nnn : Addr) (w : Word)

/-! ### As numbers (R81, R82) -/

theorem encA_toNat : (encA op nnn).toNat = op.toNat * 4096 + nnn.toNat := toNat_append_eq op nnn

theorem encXB_toNat : (encXB op x nn).toNat = op.toNat * 4096 + x.toNat * 256 + nn.toNat := by
  have h : (encXB op x nn).toNat = (op ++ x).toNat * 2 ^ 8 + nn.toNat := toNat_append_eq (op ++ x) nn
  rw [h, toNat_append_eq]; omega

theorem encXY_toNat : (encXY op x y n).toNat = op.toNat * 4096 + x.toNat * 256 + y.toNat * 16 + n.toNat := by
  have h : (encXY op x y n).toNat = (op ++ x ++ y).toNat * 2 ^ 4 + n.toNat := toNat_append_eq (op ++ x ++ y) n
  rw [h, toNat_append_eq, toNat_append_eq]; omega

theorem wordOfBytes_toNat : (wordOfBytes hi lo).toNat = hi.toNat * 256 + lo.toNat := toNat_append_eq hi lo

theorem opField_toNat : (opField w).toNat = w.toNat / 4096 := by
  simp [opField, Nat.shiftRight_eq_div_pow]; omega
theorem xField_toNat : (xField w).toNat = w.toNat / 256 % 16 := by
  simp [xField, Nat.shiftRight_eq_div_pow]
theorem yField_toNat : (yField w).toNat = w.toNat / 16 % 16 := by
  simp [yField, Nat.shiftRight_eq_div_pow]
theorem nField_toNat : (nField w).toNat = w.toNat % 16 := by simp [nField]
theorem nnField_toNat : (nnField w).toNat = w.toNat % 256 := by simp [nnField]
theorem nnnField_toNat : (nnnField w).toNat = w.toNat % 4096 := by simp [nnnField]
theorem highByte_toNat : (highByte w).toNat = w.toNat / 256 := by
  simp [highByte, Nat.shiftRight_eq_div_pow]; omega
theorem lowByte_toNat : (lowByte w).toNat = w.toNat % 256 := by simp [lowByte]

/-! ### The fields of an encoded word -/

@[simp] theorem opField_encA : opField (encA op nnn) = op := by
  apply BitVec.eq_of_toNat_eq; rw [opField_toNat, encA_toNat]; omega
@[simp] theorem nnnField_encA : nnnField (encA op nnn) = nnn := by
  apply BitVec.eq_of_toNat_eq; rw [nnnField_toNat, encA_toNat]; omega
@[simp] theorem opField_encXB : opField (encXB op x nn) = op := by
  apply BitVec.eq_of_toNat_eq; rw [opField_toNat, encXB_toNat]; omega
@[simp] theorem xField_encXB : xField (encXB op x nn) = x := by
  apply BitVec.eq_of_toNat_eq; rw [xField_toNat, encXB_toNat]; omega
@[simp] theorem nnField_encXB : nnField (encXB op x nn) = nn := by
  apply BitVec.eq_of_toNat_eq; rw [nnField_toNat, encXB_toNat]; omega
@[simp] theorem opField_encXY : opField (encXY op x y n) = op := by
  apply BitVec.eq_of_toNat_eq; rw [opField_toNat, encXY_toNat]; omega
@[simp] theorem xField_encXY : xField (encXY op x y n) = x := by
  apply BitVec.eq_of_toNat_eq; rw [xField_toNat, encXY_toNat]; omega
@[simp] theorem yField_encXY : yField (encXY op x y n) = y := by
  apply BitVec.eq_of_toNat_eq; rw [yField_toNat, encXY_toNat]; omega
@[simp] theorem nField_encXY : nField (encXY op x y n) = n := by
  apply BitVec.eq_of_toNat_eq; rw [nField_toNat, encXY_toNat]; omega

/-! ### Masks act field by field (R84) -/

theorem encA_and (op' : BitVec 4) (nnn' : Addr) : encA op nnn &&& encA op' nnn' = encA (op &&& op') (nnn &&& nnn') :=
  BitVec.and_append ..

theorem encXB_and (op' x' : BitVec 4) (nn' : Byte) :
    encXB op x nn &&& encXB op' x' nn' = encXB (op &&& op') (x &&& x') (nn &&& nn') := by
  unfold encXB
  exact (BitVec.and_append ..).trans (by rw [BitVec.and_append])

theorem encXY_and (op' x' y' n' : BitVec 4) :
    encXY op x y n &&& encXY op' x' y' n' = encXY (op &&& op') (x &&& x') (y &&& y') (n &&& n') := by
  unfold encXY
  exact (BitVec.and_append ..).trans (by rw [BitVec.and_append, BitVec.and_append])

theorem nibble_and_ones (a : BitVec 4) : a &&& 0xF#4 = a := BitVec.and_allOnes

theorem byte_and_ones (b : Byte) : b &&& 0xFF#8 = b := BitVec.and_allOnes

/-- The mask F000 keeps op. -/
theorem encA_mask : encA op nnn &&& 0xF000#16 = encA op 0x000#12 := by
  rw [show 0xF000#16 = encA 0xF#4 0x000#12 by decide, encA_and]; simp [nibble_and_ones]

theorem encXB_mask : encXB op x nn &&& 0xF000#16 = encXB op 0x0#4 0x00#8 := by
  rw [show 0xF000#16 = encXB 0xF#4 0x0#4 0x00#8 by decide, encXB_and]; simp [nibble_and_ones]

/-- The mask F0FF keeps op and nn. -/
theorem encXB_mask_nn : encXB op x nn &&& 0xF0FF#16 = encXB op 0x0#4 nn := by
  rw [show 0xF0FF#16 = encXB 0xF#4 0x0#4 0xFF#8 by decide, encXB_and]; simp [nibble_and_ones, byte_and_ones]

/-- The mask F00F keeps op and n. -/
theorem encXY_mask : encXY op x y n &&& 0xF00F#16 = encXY op 0x0#4 0x0#4 n := by
  rw [show 0xF00F#16 = encXY 0xF#4 0x0#4 0x0#4 0xF#4 by decide, encXY_and]; simp [nibble_and_ones]

theorem encXY_mask_op : encXY op x y n &&& 0xF000#16 = encXY op 0x0#4 0x0#4 0x0#4 := by
  rw [show 0xF000#16 = encXY 0xF#4 0x0#4 0x0#4 0x0#4 by decide, encXY_and]; simp [nibble_and_ones]

/-! ### A word is its fields, and its bytes -/

theorem encA_fields : encA (opField w) (nnnField w) = w := by
  apply BitVec.eq_of_toNat_eq; rw [encA_toNat, opField_toNat, nnnField_toNat]; omega
theorem encXB_fields : encXB (opField w) (xField w) (nnField w) = w := by
  apply BitVec.eq_of_toNat_eq; rw [encXB_toNat, opField_toNat, xField_toNat, nnField_toNat]; omega
theorem encXY_fields : encXY (opField w) (xField w) (yField w) (nField w) = w := by
  apply BitVec.eq_of_toNat_eq; rw [encXY_toNat, opField_toNat, xField_toNat, yField_toNat, nField_toNat]; omega
@[simp] theorem wordOfBytes_bytes : wordOfBytes (highByte w) (lowByte w) = w := by
  apply BitVec.eq_of_toNat_eq; rw [wordOfBytes_toNat, highByte_toNat, lowByte_toNat]; omega
@[simp] theorem highByte_wordOfBytes : highByte (wordOfBytes hi lo) = hi := by
  apply BitVec.eq_of_toNat_eq; rw [highByte_toNat, wordOfBytes_toNat]; omega
@[simp] theorem lowByte_wordOfBytes : lowByte (wordOfBytes hi lo) = lo := by
  apply BitVec.eq_of_toNat_eq; rw [lowByte_toNat, wordOfBytes_toNat]; omega

/-- Decoding a byte list decodes the word of its first two bytes. -/
theorem decode_cons_cons (rest : List Byte) :
    decode (hi :: lo :: rest) =
      (match decodeWord (wordOfBytes hi lo) with | .ok i => .ok (i, rest) | .error r => .error r) := rfl

end

end Sys2Proof
end

