-- ==== Sys2Proof/Laws/State.lean ====
section
/-! SUPPORT. What each update of the state does to each field: one lemma per field per update. -/

namespace Sys2Proof.Machine

/-! ### State.setV -/

@[simp] theorem State.setV_mem (s : State) (x : RegIx) (b : Byte) : (s.setV x b).mem = s.mem := rfl
@[simp] theorem State.setV_v (s : State) (x : RegIx) (b : Byte) : (s.setV x b).v = s.v.set x.toNat b := rfl
@[simp] theorem State.setV_i (s : State) (x : RegIx) (b : Byte) : (s.setV x b).i = s.i := rfl
@[simp] theorem State.setV_pc (s : State) (x : RegIx) (b : Byte) : (s.setV x b).pc = s.pc := rfl
@[simp] theorem State.setV_stack (s : State) (x : RegIx) (b : Byte) : (s.setV x b).stack = s.stack := rfl
@[simp] theorem State.setV_sp (s : State) (x : RegIx) (b : Byte) : (s.setV x b).sp = s.sp := rfl
@[simp] theorem State.setV_dt (s : State) (x : RegIx) (b : Byte) : (s.setV x b).dt = s.dt := rfl
@[simp] theorem State.setV_st (s : State) (x : RegIx) (b : Byte) : (s.setV x b).st = s.st := rfl
@[simp] theorem State.setV_key (s : State) (x : RegIx) (b : Byte) : (s.setV x b).key = s.key := rfl
@[simp] theorem State.setV_fb (s : State) (x : RegIx) (b : Byte) : (s.setV x b).fb = s.fb := rfl
@[simp] theorem State.setV_opcode (s : State) (x : RegIx) (b : Byte) : (s.setV x b).opcode = s.opcode := rfl
@[simp] theorem State.setV_execState (s : State) (x : RegIx) (b : Byte) : (s.setV x b).execState = s.execState := rfl
@[simp] theorem State.setV_fault (s : State) (x : RegIx) (b : Byte) : (s.setV x b).fault = s.fault := rfl
@[simp] theorem State.setV_cfg (s : State) (x : RegIx) (b : Byte) : (s.setV x b).cfg = s.cfg := rfl
@[simp] theorem State.setV_rnd (s : State) (x : RegIx) (b : Byte) : (s.setV x b).rnd = s.rnd := rfl
@[simp] theorem State.setV_draws (s : State) (x : RegIx) (b : Byte) : (s.setV x b).draws = s.draws := rfl
@[simp] theorem State.setV_inputs (s : State) (x : RegIx) (b : Byte) : (s.setV x b).inputs = s.inputs := rfl
@[simp] theorem State.setV_outputs (s : State) (x : RegIx) (b : Byte) : (s.setV x b).outputs = s.outputs := rfl

/-! ### State.setPc -/

@[simp] theorem State.setPc_mem (s : State) (a : Word) : (s.setPc a).mem = s.mem := rfl
@[simp] theorem State.setPc_v (s : State) (a : Word) : (s.setPc a).v = s.v := rfl
@[simp] theorem State.setPc_i (s : State) (a : Word) : (s.setPc a).i = s.i := rfl
@[simp] theorem State.setPc_pc (s : State) (a : Word) : (s.setPc a).pc = wrap12 a := rfl
@[simp] theorem State.setPc_stack (s : State) (a : Word) : (s.setPc a).stack = s.stack := rfl
@[simp] theorem State.setPc_sp (s : State) (a : Word) : (s.setPc a).sp = s.sp := rfl
@[simp] theorem State.setPc_dt (s : State) (a : Word) : (s.setPc a).dt = s.dt := rfl
@[simp] theorem State.setPc_st (s : State) (a : Word) : (s.setPc a).st = s.st := rfl
@[simp] theorem State.setPc_key (s : State) (a : Word) : (s.setPc a).key = s.key := rfl
@[simp] theorem State.setPc_fb (s : State) (a : Word) : (s.setPc a).fb = s.fb := rfl
@[simp] theorem State.setPc_opcode (s : State) (a : Word) : (s.setPc a).opcode = s.opcode := rfl
@[simp] theorem State.setPc_execState (s : State) (a : Word) : (s.setPc a).execState = s.execState := rfl
@[simp] theorem State.setPc_fault (s : State) (a : Word) : (s.setPc a).fault = s.fault := rfl
@[simp] theorem State.setPc_cfg (s : State) (a : Word) : (s.setPc a).cfg = s.cfg := rfl
@[simp] theorem State.setPc_rnd (s : State) (a : Word) : (s.setPc a).rnd = s.rnd := rfl
@[simp] theorem State.setPc_draws (s : State) (a : Word) : (s.setPc a).draws = s.draws := rfl
@[simp] theorem State.setPc_inputs (s : State) (a : Word) : (s.setPc a).inputs = s.inputs := rfl
@[simp] theorem State.setPc_outputs (s : State) (a : Word) : (s.setPc a).outputs = s.outputs := rfl

/-! ### State.setI -/

@[simp] theorem State.setI_mem (s : State) (a : Word) : (s.setI a).mem = s.mem := rfl
@[simp] theorem State.setI_v (s : State) (a : Word) : (s.setI a).v = s.v := rfl
@[simp] theorem State.setI_i (s : State) (a : Word) : (s.setI a).i = wrap12 a := rfl
@[simp] theorem State.setI_pc (s : State) (a : Word) : (s.setI a).pc = s.pc := rfl
@[simp] theorem State.setI_stack (s : State) (a : Word) : (s.setI a).stack = s.stack := rfl
@[simp] theorem State.setI_sp (s : State) (a : Word) : (s.setI a).sp = s.sp := rfl
@[simp] theorem State.setI_dt (s : State) (a : Word) : (s.setI a).dt = s.dt := rfl
@[simp] theorem State.setI_st (s : State) (a : Word) : (s.setI a).st = s.st := rfl
@[simp] theorem State.setI_key (s : State) (a : Word) : (s.setI a).key = s.key := rfl
@[simp] theorem State.setI_fb (s : State) (a : Word) : (s.setI a).fb = s.fb := rfl
@[simp] theorem State.setI_opcode (s : State) (a : Word) : (s.setI a).opcode = s.opcode := rfl
@[simp] theorem State.setI_execState (s : State) (a : Word) : (s.setI a).execState = s.execState := rfl
@[simp] theorem State.setI_fault (s : State) (a : Word) : (s.setI a).fault = s.fault := rfl
@[simp] theorem State.setI_cfg (s : State) (a : Word) : (s.setI a).cfg = s.cfg := rfl
@[simp] theorem State.setI_rnd (s : State) (a : Word) : (s.setI a).rnd = s.rnd := rfl
@[simp] theorem State.setI_draws (s : State) (a : Word) : (s.setI a).draws = s.draws := rfl
@[simp] theorem State.setI_inputs (s : State) (a : Word) : (s.setI a).inputs = s.inputs := rfl
@[simp] theorem State.setI_outputs (s : State) (a : Word) : (s.setI a).outputs = s.outputs := rfl

/-! ### State.setVThenFlag -/

@[simp] theorem State.setVThenFlag_mem (s : State) (x : RegIx) (b f : Byte) : (s.setVThenFlag x b f).mem = s.mem := rfl
@[simp] theorem State.setVThenFlag_v (s : State) (x : RegIx) (b f : Byte) : (s.setVThenFlag x b f).v = (s.v.set x.toNat b).set vfIx.toNat f := rfl
@[simp] theorem State.setVThenFlag_i (s : State) (x : RegIx) (b f : Byte) : (s.setVThenFlag x b f).i = s.i := rfl
@[simp] theorem State.setVThenFlag_pc (s : State) (x : RegIx) (b f : Byte) : (s.setVThenFlag x b f).pc = s.pc := rfl
@[simp] theorem State.setVThenFlag_stack (s : State) (x : RegIx) (b f : Byte) : (s.setVThenFlag x b f).stack = s.stack := rfl
@[simp] theorem State.setVThenFlag_sp (s : State) (x : RegIx) (b f : Byte) : (s.setVThenFlag x b f).sp = s.sp := rfl
@[simp] theorem State.setVThenFlag_dt (s : State) (x : RegIx) (b f : Byte) : (s.setVThenFlag x b f).dt = s.dt := rfl
@[simp] theorem State.setVThenFlag_st (s : State) (x : RegIx) (b f : Byte) : (s.setVThenFlag x b f).st = s.st := rfl
@[simp] theorem State.setVThenFlag_key (s : State) (x : RegIx) (b f : Byte) : (s.setVThenFlag x b f).key = s.key := rfl
@[simp] theorem State.setVThenFlag_fb (s : State) (x : RegIx) (b f : Byte) : (s.setVThenFlag x b f).fb = s.fb := rfl
@[simp] theorem State.setVThenFlag_opcode (s : State) (x : RegIx) (b f : Byte) : (s.setVThenFlag x b f).opcode = s.opcode := rfl
@[simp] theorem State.setVThenFlag_execState (s : State) (x : RegIx) (b f : Byte) : (s.setVThenFlag x b f).execState = s.execState := rfl
@[simp] theorem State.setVThenFlag_fault (s : State) (x : RegIx) (b f : Byte) : (s.setVThenFlag x b f).fault = s.fault := rfl
@[simp] theorem State.setVThenFlag_cfg (s : State) (x : RegIx) (b f : Byte) : (s.setVThenFlag x b f).cfg = s.cfg := rfl
@[simp] theorem State.setVThenFlag_rnd (s : State) (x : RegIx) (b f : Byte) : (s.setVThenFlag x b f).rnd = s.rnd := rfl
@[simp] theorem State.setVThenFlag_draws (s : State) (x : RegIx) (b f : Byte) : (s.setVThenFlag x b f).draws = s.draws := rfl
@[simp] theorem State.setVThenFlag_inputs (s : State) (x : RegIx) (b f : Byte) : (s.setVThenFlag x b f).inputs = s.inputs := rfl
@[simp] theorem State.setVThenFlag_outputs (s : State) (x : RegIx) (b f : Byte) : (s.setVThenFlag x b f).outputs = s.outputs := rfl

/-! ### State.skipIf -/

@[simp] theorem State.skipIf_mem (s : State) (c : Bool) : (s.skipIf c).mem = s.mem := by unfold State.skipIf; split <;> rfl
@[simp] theorem State.skipIf_v (s : State) (c : Bool) : (s.skipIf c).v = s.v := by unfold State.skipIf; split <;> rfl
@[simp] theorem State.skipIf_i (s : State) (c : Bool) : (s.skipIf c).i = s.i := by unfold State.skipIf; split <;> rfl
@[simp] theorem State.skipIf_pc (s : State) (c : Bool) : (s.skipIf c).pc = if c then wrap12 (s.pc + 2#16) else s.pc := by unfold State.skipIf; split <;> rfl
@[simp] theorem State.skipIf_stack (s : State) (c : Bool) : (s.skipIf c).stack = s.stack := by unfold State.skipIf; split <;> rfl
@[simp] theorem State.skipIf_sp (s : State) (c : Bool) : (s.skipIf c).sp = s.sp := by unfold State.skipIf; split <;> rfl
@[simp] theorem State.skipIf_dt (s : State) (c : Bool) : (s.skipIf c).dt = s.dt := by unfold State.skipIf; split <;> rfl
@[simp] theorem State.skipIf_st (s : State) (c : Bool) : (s.skipIf c).st = s.st := by unfold State.skipIf; split <;> rfl
@[simp] theorem State.skipIf_key (s : State) (c : Bool) : (s.skipIf c).key = s.key := by unfold State.skipIf; split <;> rfl
@[simp] theorem State.skipIf_fb (s : State) (c : Bool) : (s.skipIf c).fb = s.fb := by unfold State.skipIf; split <;> rfl
@[simp] theorem State.skipIf_opcode (s : State) (c : Bool) : (s.skipIf c).opcode = s.opcode := by unfold State.skipIf; split <;> rfl
@[simp] theorem State.skipIf_execState (s : State) (c : Bool) : (s.skipIf c).execState = s.execState := by unfold State.skipIf; split <;> rfl
@[simp] theorem State.skipIf_fault (s : State) (c : Bool) : (s.skipIf c).fault = s.fault := by unfold State.skipIf; split <;> rfl
@[simp] theorem State.skipIf_cfg (s : State) (c : Bool) : (s.skipIf c).cfg = s.cfg := by unfold State.skipIf; split <;> rfl
@[simp] theorem State.skipIf_rnd (s : State) (c : Bool) : (s.skipIf c).rnd = s.rnd := by unfold State.skipIf; split <;> rfl
@[simp] theorem State.skipIf_draws (s : State) (c : Bool) : (s.skipIf c).draws = s.draws := by unfold State.skipIf; split <;> rfl
@[simp] theorem State.skipIf_inputs (s : State) (c : Bool) : (s.skipIf c).inputs = s.inputs := by unfold State.skipIf; split <;> rfl
@[simp] theorem State.skipIf_outputs (s : State) (c : Bool) : (s.skipIf c).outputs = s.outputs := by unfold State.skipIf; split <;> rfl

/-! ### State.push -/

@[simp] theorem State.push_mem (s : State) (a : Word) (h : s.sp.val < 16) : (s.push a h).mem = s.mem := rfl
@[simp] theorem State.push_v (s : State) (a : Word) (h : s.sp.val < 16) : (s.push a h).v = s.v := rfl
@[simp] theorem State.push_i (s : State) (a : Word) (h : s.sp.val < 16) : (s.push a h).i = s.i := rfl
@[simp] theorem State.push_pc (s : State) (a : Word) (h : s.sp.val < 16) : (s.push a h).pc = s.pc := rfl
@[simp] theorem State.push_stack (s : State) (a : Word) (h : s.sp.val < 16) : (s.push a h).stack = s.stack.set s.sp.val a := rfl
@[simp] theorem State.push_sp (s : State) (a : Word) (h : s.sp.val < 16) : (s.push a h).sp = ⟨s.sp.val + 1, by omega⟩ := rfl
@[simp] theorem State.push_dt (s : State) (a : Word) (h : s.sp.val < 16) : (s.push a h).dt = s.dt := rfl
@[simp] theorem State.push_st (s : State) (a : Word) (h : s.sp.val < 16) : (s.push a h).st = s.st := rfl
@[simp] theorem State.push_key (s : State) (a : Word) (h : s.sp.val < 16) : (s.push a h).key = s.key := rfl
@[simp] theorem State.push_fb (s : State) (a : Word) (h : s.sp.val < 16) : (s.push a h).fb = s.fb := rfl
@[simp] theorem State.push_opcode (s : State) (a : Word) (h : s.sp.val < 16) : (s.push a h).opcode = s.opcode := rfl
@[simp] theorem State.push_execState (s : State) (a : Word) (h : s.sp.val < 16) : (s.push a h).execState = s.execState := rfl
@[simp] theorem State.push_fault (s : State) (a : Word) (h : s.sp.val < 16) : (s.push a h).fault = s.fault := rfl
@[simp] theorem State.push_cfg (s : State) (a : Word) (h : s.sp.val < 16) : (s.push a h).cfg = s.cfg := rfl
@[simp] theorem State.push_rnd (s : State) (a : Word) (h : s.sp.val < 16) : (s.push a h).rnd = s.rnd := rfl
@[simp] theorem State.push_draws (s : State) (a : Word) (h : s.sp.val < 16) : (s.push a h).draws = s.draws := rfl
@[simp] theorem State.push_inputs (s : State) (a : Word) (h : s.sp.val < 16) : (s.push a h).inputs = s.inputs := rfl
@[simp] theorem State.push_outputs (s : State) (a : Word) (h : s.sp.val < 16) : (s.push a h).outputs = s.outputs := rfl

/-! ### State.pop -/

@[simp] theorem State.pop_mem (s : State) : (s.pop).mem = s.mem := rfl
@[simp] theorem State.pop_v (s : State) : (s.pop).v = s.v := rfl
@[simp] theorem State.pop_i (s : State) : (s.pop).i = s.i := rfl
@[simp] theorem State.pop_pc (s : State) : (s.pop).pc = s.pc := rfl
@[simp] theorem State.pop_stack (s : State) : (s.pop).stack = s.stack := rfl
@[simp] theorem State.pop_sp (s : State) : (s.pop).sp = ⟨s.sp.val - 1, by omega⟩ := rfl
@[simp] theorem State.pop_dt (s : State) : (s.pop).dt = s.dt := rfl
@[simp] theorem State.pop_st (s : State) : (s.pop).st = s.st := rfl
@[simp] theorem State.pop_key (s : State) : (s.pop).key = s.key := rfl
@[simp] theorem State.pop_fb (s : State) : (s.pop).fb = s.fb := rfl
@[simp] theorem State.pop_opcode (s : State) : (s.pop).opcode = s.opcode := rfl
@[simp] theorem State.pop_execState (s : State) : (s.pop).execState = s.execState := rfl
@[simp] theorem State.pop_fault (s : State) : (s.pop).fault = s.fault := rfl
@[simp] theorem State.pop_cfg (s : State) : (s.pop).cfg = s.cfg := rfl
@[simp] theorem State.pop_rnd (s : State) : (s.pop).rnd = s.rnd := rfl
@[simp] theorem State.pop_draws (s : State) : (s.pop).draws = s.draws := rfl
@[simp] theorem State.pop_inputs (s : State) : (s.pop).inputs = s.inputs := rfl
@[simp] theorem State.pop_outputs (s : State) : (s.pop).outputs = s.outputs := rfl

/-! ### State.emit -/

@[simp] theorem State.emit_mem (s : State) (o : Output) : (s.emit o).mem = s.mem := rfl
@[simp] theorem State.emit_v (s : State) (o : Output) : (s.emit o).v = s.v := rfl
@[simp] theorem State.emit_i (s : State) (o : Output) : (s.emit o).i = s.i := rfl
@[simp] theorem State.emit_pc (s : State) (o : Output) : (s.emit o).pc = s.pc := rfl
@[simp] theorem State.emit_stack (s : State) (o : Output) : (s.emit o).stack = s.stack := rfl
@[simp] theorem State.emit_sp (s : State) (o : Output) : (s.emit o).sp = s.sp := rfl
@[simp] theorem State.emit_dt (s : State) (o : Output) : (s.emit o).dt = s.dt := rfl
@[simp] theorem State.emit_st (s : State) (o : Output) : (s.emit o).st = s.st := rfl
@[simp] theorem State.emit_key (s : State) (o : Output) : (s.emit o).key = s.key := rfl
@[simp] theorem State.emit_fb (s : State) (o : Output) : (s.emit o).fb = s.fb := rfl
@[simp] theorem State.emit_opcode (s : State) (o : Output) : (s.emit o).opcode = s.opcode := rfl
@[simp] theorem State.emit_execState (s : State) (o : Output) : (s.emit o).execState = s.execState := rfl
@[simp] theorem State.emit_fault (s : State) (o : Output) : (s.emit o).fault = s.fault := rfl
@[simp] theorem State.emit_cfg (s : State) (o : Output) : (s.emit o).cfg = s.cfg := rfl
@[simp] theorem State.emit_rnd (s : State) (o : Output) : (s.emit o).rnd = s.rnd := rfl
@[simp] theorem State.emit_draws (s : State) (o : Output) : (s.emit o).draws = s.draws := rfl
@[simp] theorem State.emit_inputs (s : State) (o : Output) : (s.emit o).inputs = s.inputs := rfl
@[simp] theorem State.emit_outputs (s : State) (o : Output) : (s.emit o).outputs = s.outputs ++ [o] := rfl

/-! ### State.takeRandom -/

@[simp] theorem State.takeRandom_mem (s : State) : (s.takeRandom).mem = s.mem := by unfold State.takeRandom; split <;> rfl
@[simp] theorem State.takeRandom_v (s : State) : (s.takeRandom).v = s.v := by unfold State.takeRandom; split <;> rfl
@[simp] theorem State.takeRandom_i (s : State) : (s.takeRandom).i = s.i := by unfold State.takeRandom; split <;> rfl
@[simp] theorem State.takeRandom_pc (s : State) : (s.takeRandom).pc = s.pc := by unfold State.takeRandom; split <;> rfl
@[simp] theorem State.takeRandom_stack (s : State) : (s.takeRandom).stack = s.stack := by unfold State.takeRandom; split <;> rfl
@[simp] theorem State.takeRandom_sp (s : State) : (s.takeRandom).sp = s.sp := by unfold State.takeRandom; split <;> rfl
@[simp] theorem State.takeRandom_dt (s : State) : (s.takeRandom).dt = s.dt := by unfold State.takeRandom; split <;> rfl
@[simp] theorem State.takeRandom_st (s : State) : (s.takeRandom).st = s.st := by unfold State.takeRandom; split <;> rfl
@[simp] theorem State.takeRandom_key (s : State) : (s.takeRandom).key = s.key := by unfold State.takeRandom; split <;> rfl
@[simp] theorem State.takeRandom_fb (s : State) : (s.takeRandom).fb = s.fb := by unfold State.takeRandom; split <;> rfl
@[simp] theorem State.takeRandom_opcode (s : State) : (s.takeRandom).opcode = s.opcode := by unfold State.takeRandom; split <;> rfl
@[simp] theorem State.takeRandom_execState (s : State) : (s.takeRandom).execState = s.execState := by unfold State.takeRandom; split <;> rfl
@[simp] theorem State.takeRandom_fault (s : State) : (s.takeRandom).fault = s.fault := by unfold State.takeRandom; split <;> rfl
@[simp] theorem State.takeRandom_cfg (s : State) : (s.takeRandom).cfg = s.cfg := by unfold State.takeRandom; split <;> rfl
@[simp] theorem State.takeRandom_rnd (s : State) : (s.takeRandom).rnd = s.rnd.tail := by unfold State.takeRandom; split <;> simp_all
@[simp] theorem State.takeRandom_draws (s : State) : (s.takeRandom).draws = if s.rnd.isEmpty then s.draws + 1 else s.draws := by unfold State.takeRandom; split <;> simp_all
@[simp] theorem State.takeRandom_inputs (s : State) : (s.takeRandom).inputs = s.inputs := by unfold State.takeRandom; split <;> rfl
@[simp] theorem State.takeRandom_outputs (s : State) : (s.takeRandom).outputs = s.outputs := by unfold State.takeRandom; split <;> rfl

/-! ### State.fetch -/

@[simp] theorem State.fetch_mem (s : State) : (s.fetch).mem = s.mem := rfl
@[simp] theorem State.fetch_v (s : State) : (s.fetch).v = s.v := rfl
@[simp] theorem State.fetch_i (s : State) : (s.fetch).i = s.i := rfl
@[simp] theorem State.fetch_pc (s : State) : (s.fetch).pc = wrap12 (s.pc + 2#16) := rfl
@[simp] theorem State.fetch_stack (s : State) : (s.fetch).stack = s.stack := rfl
@[simp] theorem State.fetch_sp (s : State) : (s.fetch).sp = s.sp := rfl
@[simp] theorem State.fetch_dt (s : State) : (s.fetch).dt = s.dt := rfl
@[simp] theorem State.fetch_st (s : State) : (s.fetch).st = s.st := rfl
@[simp] theorem State.fetch_key (s : State) : (s.fetch).key = s.key := rfl
@[simp] theorem State.fetch_fb (s : State) : (s.fetch).fb = s.fb := rfl
@[simp] theorem State.fetch_opcode (s : State) : (s.fetch).opcode = s.fetchWord := rfl
@[simp] theorem State.fetch_execState (s : State) : (s.fetch).execState = s.execState := rfl
@[simp] theorem State.fetch_fault (s : State) : (s.fetch).fault = s.fault := rfl
@[simp] theorem State.fetch_cfg (s : State) : (s.fetch).cfg = s.cfg := rfl
@[simp] theorem State.fetch_rnd (s : State) : (s.fetch).rnd = s.rnd := rfl
@[simp] theorem State.fetch_draws (s : State) : (s.fetch).draws = s.draws := rfl
@[simp] theorem State.fetch_inputs (s : State) : (s.fetch).inputs = s.inputs := rfl
@[simp] theorem State.fetch_outputs (s : State) : (s.fetch).outputs = s.outputs := rfl

/-! ### State.raise -/

@[simp] theorem State.raise_mem (s : State) (e : FatalError) : (s.raise e).mem = s.mem := rfl
@[simp] theorem State.raise_v (s : State) (e : FatalError) : (s.raise e).v = s.v := rfl
@[simp] theorem State.raise_i (s : State) (e : FatalError) : (s.raise e).i = s.i := rfl
@[simp] theorem State.raise_pc (s : State) (e : FatalError) : (s.raise e).pc = s.pc := rfl
@[simp] theorem State.raise_stack (s : State) (e : FatalError) : (s.raise e).stack = s.stack := rfl
@[simp] theorem State.raise_sp (s : State) (e : FatalError) : (s.raise e).sp = s.sp := rfl
@[simp] theorem State.raise_dt (s : State) (e : FatalError) : (s.raise e).dt = s.dt := rfl
@[simp] theorem State.raise_st (s : State) (e : FatalError) : (s.raise e).st = s.st := rfl
@[simp] theorem State.raise_key (s : State) (e : FatalError) : (s.raise e).key = s.key := rfl
@[simp] theorem State.raise_fb (s : State) (e : FatalError) : (s.raise e).fb = s.fb := rfl
@[simp] theorem State.raise_opcode (s : State) (e : FatalError) : (s.raise e).opcode = s.opcode := rfl
@[simp] theorem State.raise_execState (s : State) (e : FatalError) : (s.raise e).execState = .stopped := rfl
@[simp] theorem State.raise_fault (s : State) (e : FatalError) : (s.raise e).fault = some e := rfl
@[simp] theorem State.raise_cfg (s : State) (e : FatalError) : (s.raise e).cfg = s.cfg := rfl
@[simp] theorem State.raise_rnd (s : State) (e : FatalError) : (s.raise e).rnd = s.rnd := rfl
@[simp] theorem State.raise_draws (s : State) (e : FatalError) : (s.raise e).draws = s.draws := rfl
@[simp] theorem State.raise_inputs (s : State) (e : FatalError) : (s.raise e).inputs = s.inputs := rfl
@[simp] theorem State.raise_outputs (s : State) (e : FatalError) : (s.raise e).outputs = s.outputs := rfl

/-! ### State.complete -/

@[simp] theorem State.complete_mem (s : State) : (s.complete).mem = s.mem := by unfold State.complete; split <;> rfl
@[simp] theorem State.complete_v (s : State) : (s.complete).v = s.v := by unfold State.complete; split <;> rfl
@[simp] theorem State.complete_i (s : State) : (s.complete).i = s.i := by unfold State.complete; split <;> rfl
@[simp] theorem State.complete_pc (s : State) : (s.complete).pc = s.pc := by unfold State.complete; split <;> rfl
@[simp] theorem State.complete_stack (s : State) : (s.complete).stack = s.stack := by unfold State.complete; split <;> rfl
@[simp] theorem State.complete_sp (s : State) : (s.complete).sp = s.sp := by unfold State.complete; split <;> rfl
@[simp] theorem State.complete_dt (s : State) : (s.complete).dt = s.dt := by unfold State.complete; split <;> rfl
@[simp] theorem State.complete_st (s : State) : (s.complete).st = s.st := by unfold State.complete; split <;> rfl
@[simp] theorem State.complete_key (s : State) : (s.complete).key = s.key := by unfold State.complete; split <;> rfl
@[simp] theorem State.complete_fb (s : State) : (s.complete).fb = s.fb := by unfold State.complete; split <;> rfl
@[simp] theorem State.complete_opcode (s : State) : (s.complete).opcode = s.opcode := by unfold State.complete; split <;> rfl
@[simp] theorem State.complete_execState (s : State) : (s.complete).execState = if s.execState = .stepping then .paused else s.execState := by unfold State.complete; split <;> simp_all
@[simp] theorem State.complete_fault (s : State) : (s.complete).fault = s.fault := by unfold State.complete; split <;> rfl
@[simp] theorem State.complete_cfg (s : State) : (s.complete).cfg = s.cfg := by unfold State.complete; split <;> rfl
@[simp] theorem State.complete_rnd (s : State) : (s.complete).rnd = s.rnd := by unfold State.complete; split <;> rfl
@[simp] theorem State.complete_draws (s : State) : (s.complete).draws = s.draws := by unfold State.complete; split <;> rfl
@[simp] theorem State.complete_inputs (s : State) : (s.complete).inputs = s.inputs := by unfold State.complete; split <;> rfl
@[simp] theorem State.complete_outputs (s : State) : (s.complete).outputs = s.outputs := by unfold State.complete; split <;> rfl

/-! ### State.writeByte -/

@[simp] theorem State.writeByte_mem (s : State) (a : Word) (b : Byte) : (s.writeByte a b).mem = Memory.write s.cfg.font s.mem (wrap12 a).toNat b := rfl
@[simp] theorem State.writeByte_v (s : State) (a : Word) (b : Byte) : (s.writeByte a b).v = s.v := rfl
@[simp] theorem State.writeByte_i (s : State) (a : Word) (b : Byte) : (s.writeByte a b).i = s.i := rfl
@[simp] theorem State.writeByte_pc (s : State) (a : Word) (b : Byte) : (s.writeByte a b).pc = s.pc := rfl
@[simp] theorem State.writeByte_stack (s : State) (a : Word) (b : Byte) : (s.writeByte a b).stack = s.stack := rfl
@[simp] theorem State.writeByte_sp (s : State) (a : Word) (b : Byte) : (s.writeByte a b).sp = s.sp := rfl
@[simp] theorem State.writeByte_dt (s : State) (a : Word) (b : Byte) : (s.writeByte a b).dt = s.dt := rfl
@[simp] theorem State.writeByte_st (s : State) (a : Word) (b : Byte) : (s.writeByte a b).st = s.st := rfl
@[simp] theorem State.writeByte_key (s : State) (a : Word) (b : Byte) : (s.writeByte a b).key = s.key := rfl
@[simp] theorem State.writeByte_fb (s : State) (a : Word) (b : Byte) : (s.writeByte a b).fb = s.fb := rfl
@[simp] theorem State.writeByte_opcode (s : State) (a : Word) (b : Byte) : (s.writeByte a b).opcode = s.opcode := rfl
@[simp] theorem State.writeByte_execState (s : State) (a : Word) (b : Byte) : (s.writeByte a b).execState = s.execState := rfl
@[simp] theorem State.writeByte_fault (s : State) (a : Word) (b : Byte) : (s.writeByte a b).fault = s.fault := rfl
@[simp] theorem State.writeByte_cfg (s : State) (a : Word) (b : Byte) : (s.writeByte a b).cfg = s.cfg := rfl
@[simp] theorem State.writeByte_rnd (s : State) (a : Word) (b : Byte) : (s.writeByte a b).rnd = s.rnd := rfl
@[simp] theorem State.writeByte_draws (s : State) (a : Word) (b : Byte) : (s.writeByte a b).draws = s.draws := rfl
@[simp] theorem State.writeByte_inputs (s : State) (a : Word) (b : Byte) : (s.writeByte a b).inputs = s.inputs := rfl
@[simp] theorem State.writeByte_outputs (s : State) (a : Word) (b : Byte) : (s.writeByte a b).outputs = s.outputs := rfl

/-! ### State.loadRegs -/

@[simp] theorem State.loadRegs_mem (s : State) (a : Word) (x : RegIx) : (s.loadRegs a x).mem = s.mem := rfl
@[simp] theorem State.loadRegs_i (s : State) (a : Word) (x : RegIx) : (s.loadRegs a x).i = s.i := rfl
@[simp] theorem State.loadRegs_pc (s : State) (a : Word) (x : RegIx) : (s.loadRegs a x).pc = s.pc := rfl
@[simp] theorem State.loadRegs_stack (s : State) (a : Word) (x : RegIx) : (s.loadRegs a x).stack = s.stack := rfl
@[simp] theorem State.loadRegs_sp (s : State) (a : Word) (x : RegIx) : (s.loadRegs a x).sp = s.sp := rfl
@[simp] theorem State.loadRegs_dt (s : State) (a : Word) (x : RegIx) : (s.loadRegs a x).dt = s.dt := rfl
@[simp] theorem State.loadRegs_st (s : State) (a : Word) (x : RegIx) : (s.loadRegs a x).st = s.st := rfl
@[simp] theorem State.loadRegs_key (s : State) (a : Word) (x : RegIx) : (s.loadRegs a x).key = s.key := rfl
@[simp] theorem State.loadRegs_fb (s : State) (a : Word) (x : RegIx) : (s.loadRegs a x).fb = s.fb := rfl
@[simp] theorem State.loadRegs_opcode (s : State) (a : Word) (x : RegIx) : (s.loadRegs a x).opcode = s.opcode := rfl
@[simp] theorem State.loadRegs_execState (s : State) (a : Word) (x : RegIx) : (s.loadRegs a x).execState = s.execState := rfl
@[simp] theorem State.loadRegs_fault (s : State) (a : Word) (x : RegIx) : (s.loadRegs a x).fault = s.fault := rfl
@[simp] theorem State.loadRegs_cfg (s : State) (a : Word) (x : RegIx) : (s.loadRegs a x).cfg = s.cfg := rfl
@[simp] theorem State.loadRegs_rnd (s : State) (a : Word) (x : RegIx) : (s.loadRegs a x).rnd = s.rnd := rfl
@[simp] theorem State.loadRegs_draws (s : State) (a : Word) (x : RegIx) : (s.loadRegs a x).draws = s.draws := rfl
@[simp] theorem State.loadRegs_inputs (s : State) (a : Word) (x : RegIx) : (s.loadRegs a x).inputs = s.inputs := rfl
@[simp] theorem State.loadRegs_outputs (s : State) (a : Word) (x : RegIx) : (s.loadRegs a x).outputs = s.outputs := rfl

/-! ### State.postIndex -/

@[simp] theorem State.postIndex_mem (s : State) (a : Word) (x : RegIx) : (s.postIndex a x).mem = s.mem := by unfold State.postIndex; split <;> rfl
@[simp] theorem State.postIndex_v (s : State) (a : Word) (x : RegIx) : (s.postIndex a x).v = s.v := by unfold State.postIndex; split <;> rfl
@[simp] theorem State.postIndex_i (s : State) (a : Word) (x : RegIx) : (s.postIndex a x).i = if s.cfg.quirks.loadstore then wrap12 (a + BitVec.ofNat 16 (x.toNat + 1)) else s.i := by unfold State.postIndex; split <;> rfl
@[simp] theorem State.postIndex_pc (s : State) (a : Word) (x : RegIx) : (s.postIndex a x).pc = s.pc := by unfold State.postIndex; split <;> rfl
@[simp] theorem State.postIndex_stack (s : State) (a : Word) (x : RegIx) : (s.postIndex a x).stack = s.stack := by unfold State.postIndex; split <;> rfl
@[simp] theorem State.postIndex_sp (s : State) (a : Word) (x : RegIx) : (s.postIndex a x).sp = s.sp := by unfold State.postIndex; split <;> rfl
@[simp] theorem State.postIndex_dt (s : State) (a : Word) (x : RegIx) : (s.postIndex a x).dt = s.dt := by unfold State.postIndex; split <;> rfl
@[simp] theorem State.postIndex_st (s : State) (a : Word) (x : RegIx) : (s.postIndex a x).st = s.st := by unfold State.postIndex; split <;> rfl
@[simp] theorem State.postIndex_key (s : State) (a : Word) (x : RegIx) : (s.postIndex a x).key = s.key := by unfold State.postIndex; split <;> rfl
@[simp] theorem State.postIndex_fb (s : State) (a : Word) (x : RegIx) : (s.postIndex a x).fb = s.fb := by unfold State.postIndex; split <;> rfl
@[simp] theorem State.postIndex_opcode (s : State) (a : Word) (x : RegIx) : (s.postIndex a x).opcode = s.opcode := by unfold State.postIndex; split <;> rfl
@[simp] theorem State.postIndex_execState (s : State) (a : Word) (x : RegIx) : (s.postIndex a x).execState = s.execState := by unfold State.postIndex; split <;> rfl
@[simp] theorem State.postIndex_fault (s : State) (a : Word) (x : RegIx) : (s.postIndex a x).fault = s.fault := by unfold State.postIndex; split <;> rfl
@[simp] theorem State.postIndex_cfg (s : State) (a : Word) (x : RegIx) : (s.postIndex a x).cfg = s.cfg := by unfold State.postIndex; split <;> rfl
@[simp] theorem State.postIndex_rnd (s : State) (a : Word) (x : RegIx) : (s.postIndex a x).rnd = s.rnd := by unfold State.postIndex; split <;> rfl
@[simp] theorem State.postIndex_draws (s : State) (a : Word) (x : RegIx) : (s.postIndex a x).draws = s.draws := by unfold State.postIndex; split <;> rfl
@[simp] theorem State.postIndex_inputs (s : State) (a : Word) (x : RegIx) : (s.postIndex a x).inputs = s.inputs := by unfold State.postIndex; split <;> rfl
@[simp] theorem State.postIndex_outputs (s : State) (a : Word) (x : RegIx) : (s.postIndex a x).outputs = s.outputs := by unfold State.postIndex; split <;> rfl

/-! ### State.logicQuirk -/

@[simp] theorem State.logicQuirk_mem (s : State) : (s.logicQuirk).mem = s.mem := by unfold State.logicQuirk; split <;> rfl
@[simp] theorem State.logicQuirk_v (s : State) : (s.logicQuirk).v = if s.cfg.quirks.logic then s.v.set vfIx.toNat 0x00#8 else s.v := by unfold State.logicQuirk; split <;> rfl
@[simp] theorem State.logicQuirk_i (s : State) : (s.logicQuirk).i = s.i := by unfold State.logicQuirk; split <;> rfl
@[simp] theorem State.logicQuirk_pc (s : State) : (s.logicQuirk).pc = s.pc := by unfold State.logicQuirk; split <;> rfl
@[simp] theorem State.logicQuirk_stack (s : State) : (s.logicQuirk).stack = s.stack := by unfold State.logicQuirk; split <;> rfl
@[simp] theorem State.logicQuirk_sp (s : State) : (s.logicQuirk).sp = s.sp := by unfold State.logicQuirk; split <;> rfl
@[simp] theorem State.logicQuirk_dt (s : State) : (s.logicQuirk).dt = s.dt := by unfold State.logicQuirk; split <;> rfl
@[simp] theorem State.logicQuirk_st (s : State) : (s.logicQuirk).st = s.st := by unfold State.logicQuirk; split <;> rfl
@[simp] theorem State.logicQuirk_key (s : State) : (s.logicQuirk).key = s.key := by unfold State.logicQuirk; split <;> rfl
@[simp] theorem State.logicQuirk_fb (s : State) : (s.logicQuirk).fb = s.fb := by unfold State.logicQuirk; split <;> rfl
@[simp] theorem State.logicQuirk_opcode (s : State) : (s.logicQuirk).opcode = s.opcode := by unfold State.logicQuirk; split <;> rfl
@[simp] theorem State.logicQuirk_execState (s : State) : (s.logicQuirk).execState = s.execState := by unfold State.logicQuirk; split <;> rfl
@[simp] theorem State.logicQuirk_fault (s : State) : (s.logicQuirk).fault = s.fault := by unfold State.logicQuirk; split <;> rfl
@[simp] theorem State.logicQuirk_cfg (s : State) : (s.logicQuirk).cfg = s.cfg := by unfold State.logicQuirk; split <;> rfl
@[simp] theorem State.logicQuirk_rnd (s : State) : (s.logicQuirk).rnd = s.rnd := by unfold State.logicQuirk; split <;> rfl
@[simp] theorem State.logicQuirk_draws (s : State) : (s.logicQuirk).draws = s.draws := by unfold State.logicQuirk; split <;> rfl
@[simp] theorem State.logicQuirk_inputs (s : State) : (s.logicQuirk).inputs = s.inputs := by unfold State.logicQuirk; split <;> rfl
@[simp] theorem State.logicQuirk_outputs (s : State) : (s.logicQuirk).outputs = s.outputs := by unfold State.logicQuirk; split <;> rfl

/-! ### State.resetCore -/

@[simp] theorem State.resetCore_mem (s : State) : (s.resetCore).mem = (State.resetWith s.cfg).mem := rfl
@[simp] theorem State.resetCore_v (s : State) : (s.resetCore).v = (State.resetWith s.cfg).v := rfl
@[simp] theorem State.resetCore_i (s : State) : (s.resetCore).i = (State.resetWith s.cfg).i := rfl
@[simp] theorem State.resetCore_pc (s : State) : (s.resetCore).pc = (State.resetWith s.cfg).pc := rfl
@[simp] theorem State.resetCore_stack (s : State) : (s.resetCore).stack = (State.resetWith s.cfg).stack := rfl
@[simp] theorem State.resetCore_sp (s : State) : (s.resetCore).sp = (State.resetWith s.cfg).sp := rfl
@[simp] theorem State.resetCore_dt (s : State) : (s.resetCore).dt = (State.resetWith s.cfg).dt := rfl
@[simp] theorem State.resetCore_st (s : State) : (s.resetCore).st = (State.resetWith s.cfg).st := rfl
@[simp] theorem State.resetCore_key (s : State) : (s.resetCore).key = (State.resetWith s.cfg).key := rfl
@[simp] theorem State.resetCore_fb (s : State) : (s.resetCore).fb = (State.resetWith s.cfg).fb := rfl
@[simp] theorem State.resetCore_opcode (s : State) : (s.resetCore).opcode = (State.resetWith s.cfg).opcode := rfl
@[simp] theorem State.resetCore_execState (s : State) : (s.resetCore).execState = (State.resetWith s.cfg).execState := rfl
@[simp] theorem State.resetCore_fault (s : State) : (s.resetCore).fault = (State.resetWith s.cfg).fault := rfl
@[simp] theorem State.resetCore_cfg (s : State) : (s.resetCore).cfg = s.cfg := rfl
@[simp] theorem State.resetCore_rnd (s : State) : (s.resetCore).rnd = s.rnd := rfl
@[simp] theorem State.resetCore_draws (s : State) : (s.resetCore).draws = s.draws := rfl
@[simp] theorem State.resetCore_inputs (s : State) : (s.resetCore).inputs = s.inputs := rfl
@[simp] theorem State.resetCore_outputs (s : State) : (s.resetCore).outputs = s.outputs := rfl

/-! ### State.writeBytes -/

@[simp] theorem State.writeBytes_v (s : State) (a : Word) (bs : List Byte) : (s.writeBytes a bs).v = s.v := by
  induction bs generalizing s a with
  | nil => rfl
  | cons b bs ih => exact ih _ _
@[simp] theorem State.writeBytes_i (s : State) (a : Word) (bs : List Byte) : (s.writeBytes a bs).i = s.i := by
  induction bs generalizing s a with
  | nil => rfl
  | cons b bs ih => exact ih _ _
@[simp] theorem State.writeBytes_pc (s : State) (a : Word) (bs : List Byte) : (s.writeBytes a bs).pc = s.pc := by
  induction bs generalizing s a with
  | nil => rfl
  | cons b bs ih => exact ih _ _
@[simp] theorem State.writeBytes_stack (s : State) (a : Word) (bs : List Byte) : (s.writeBytes a bs).stack = s.stack := by
  induction bs generalizing s a with
  | nil => rfl
  | cons b bs ih => exact ih _ _
@[simp] theorem State.writeBytes_sp (s : State) (a : Word) (bs : List Byte) : (s.writeBytes a bs).sp = s.sp := by
  induction bs generalizing s a with
  | nil => rfl
  | cons b bs ih => exact ih _ _
@[simp] theorem State.writeBytes_dt (s : State) (a : Word) (bs : List Byte) : (s.writeBytes a bs).dt = s.dt := by
  induction bs generalizing s a with
  | nil => rfl
  | cons b bs ih => exact ih _ _
@[simp] theorem State.writeBytes_st (s : State) (a : Word) (bs : List Byte) : (s.writeBytes a bs).st = s.st := by
  induction bs generalizing s a with
  | nil => rfl
  | cons b bs ih => exact ih _ _
@[simp] theorem State.writeBytes_key (s : State) (a : Word) (bs : List Byte) : (s.writeBytes a bs).key = s.key := by
  induction bs generalizing s a with
  | nil => rfl
  | cons b bs ih => exact ih _ _
@[simp] theorem State.writeBytes_fb (s : State) (a : Word) (bs : List Byte) : (s.writeBytes a bs).fb = s.fb := by
  induction bs generalizing s a with
  | nil => rfl
  | cons b bs ih => exact ih _ _
@[simp] theorem State.writeBytes_opcode (s : State) (a : Word) (bs : List Byte) : (s.writeBytes a bs).opcode = s.opcode := by
  induction bs generalizing s a with
  | nil => rfl
  | cons b bs ih => exact ih _ _
@[simp] theorem State.writeBytes_execState (s : State) (a : Word) (bs : List Byte) : (s.writeBytes a bs).execState = s.execState := by
  induction bs generalizing s a with
  | nil => rfl
  | cons b bs ih => exact ih _ _
@[simp] theorem State.writeBytes_fault (s : State) (a : Word) (bs : List Byte) : (s.writeBytes a bs).fault = s.fault := by
  induction bs generalizing s a with
  | nil => rfl
  | cons b bs ih => exact ih _ _
@[simp] theorem State.writeBytes_cfg (s : State) (a : Word) (bs : List Byte) : (s.writeBytes a bs).cfg = s.cfg := by
  induction bs generalizing s a with
  | nil => rfl
  | cons b bs ih => exact ih _ _
@[simp] theorem State.writeBytes_rnd (s : State) (a : Word) (bs : List Byte) : (s.writeBytes a bs).rnd = s.rnd := by
  induction bs generalizing s a with
  | nil => rfl
  | cons b bs ih => exact ih _ _
@[simp] theorem State.writeBytes_draws (s : State) (a : Word) (bs : List Byte) : (s.writeBytes a bs).draws = s.draws := by
  induction bs generalizing s a with
  | nil => rfl
  | cons b bs ih => exact ih _ _
@[simp] theorem State.writeBytes_inputs (s : State) (a : Word) (bs : List Byte) : (s.writeBytes a bs).inputs = s.inputs := by
  induction bs generalizing s a with
  | nil => rfl
  | cons b bs ih => exact ih _ _
@[simp] theorem State.writeBytes_outputs (s : State) (a : Word) (bs : List Byte) : (s.writeBytes a bs).outputs = s.outputs := by
  induction bs generalizing s a with
  | nil => rfl
  | cons b bs ih => exact ih _ _

/-! ### Registers read after an update -/

@[simp] theorem State.getV_setV_self (s : State) (x : RegIx) (b : Byte) : (s.setV x b).getV x = b := by
  simp [State.getV, State.setV]

theorem RegIx.toNat_ne {x y : RegIx} (h : x ≠ y) : x.toNat ≠ y.toNat := fun e => h (BitVec.eq_of_toNat_eq e)

@[simp] theorem State.getV_setV_of_ne (s : State) {x r : RegIx} (b : Byte) (h : r ≠ x) : (s.setV x b).getV r = s.getV r := by
  simp [State.getV, State.setV, (RegIx.toNat_ne h).symm]

theorem State.getV_setV (s : State) (x r : RegIx) (b : Byte) : (s.setV x b).getV r = if r = x then b else s.getV r := by
  split
  · subst r; simp
  · rename_i h; simp [h]

/-- The flag is written last: VF holds it even when VF is the destination (R105). -/
@[simp] theorem State.getV_setVThenFlag_vf (s : State) (x : RegIx) (b f : Byte) : (s.setVThenFlag x b f).getV vfIx = f := by
  simp [State.setVThenFlag]

@[simp] theorem State.getV_setVThenFlag_self (s : State) {x : RegIx} (b f : Byte) (h : x ≠ vfIx) :
    (s.setVThenFlag x b f).getV x = b := by
  simp [State.setVThenFlag, h]

@[simp] theorem State.getV_setVThenFlag_of_ne (s : State) {x r : RegIx} (b f : Byte) (h : r ≠ x) (hf : r ≠ vfIx) :
    (s.setVThenFlag x b f).getV r = s.getV r := by
  simp [State.setVThenFlag, h, hf]

/-- Registers depend on the field `v` alone. -/
theorem State.getV_congr {s t : State} (h : t.v = s.v) (r : RegIx) : t.getV r = s.getV r := by
  simp [State.getV, h]

/-- Memory reads depend on `mem` and `cfg` alone. -/
theorem State.readByte_congr {s t : State} (hm : t.mem = s.mem) (hc : t.cfg = s.cfg) (a : Word) :
    t.readByte a = s.readByte a := by
  simp [State.readByte, hm, hc]

@[simp] theorem State.readByte_setV (s : State) (x : RegIx) (b : Byte) (adr : Word) : (s.setV x b).readByte adr = s.readByte adr := State.readByte_congr (by simp) (by simp) adr
@[simp] theorem State.getV_setPc (s : State) (a : Word) (r : RegIx) : (s.setPc a).getV r = s.getV r := State.getV_congr (by simp) r
@[simp] theorem State.readByte_setPc (s : State) (a : Word) (adr : Word) : (s.setPc a).readByte adr = s.readByte adr := State.readByte_congr (by simp) (by simp) adr
@[simp] theorem State.getV_setI (s : State) (a : Word) (r : RegIx) : (s.setI a).getV r = s.getV r := State.getV_congr (by simp) r
@[simp] theorem State.readByte_setI (s : State) (a : Word) (adr : Word) : (s.setI a).readByte adr = s.readByte adr := State.readByte_congr (by simp) (by simp) adr
@[simp] theorem State.readByte_setVThenFlag (s : State) (x : RegIx) (b f : Byte) (adr : Word) : (s.setVThenFlag x b f).readByte adr = s.readByte adr := State.readByte_congr (by simp) (by simp) adr
@[simp] theorem State.getV_skipIf (s : State) (c : Bool) (r : RegIx) : (s.skipIf c).getV r = s.getV r := State.getV_congr (by simp) r
@[simp] theorem State.readByte_skipIf (s : State) (c : Bool) (adr : Word) : (s.skipIf c).readByte adr = s.readByte adr := State.readByte_congr (by simp) (by simp) adr
@[simp] theorem State.getV_push (s : State) (a : Word) (h : s.sp.val < 16) (r : RegIx) : (s.push a h).getV r = s.getV r := State.getV_congr (by simp) r
@[simp] theorem State.readByte_push (s : State) (a : Word) (h : s.sp.val < 16) (adr : Word) : (s.push a h).readByte adr = s.readByte adr := State.readByte_congr (by simp) (by simp) adr
@[simp] theorem State.getV_pop (s : State) (r : RegIx) : (s.pop).getV r = s.getV r := State.getV_congr (by simp) r
@[simp] theorem State.readByte_pop (s : State) (adr : Word) : (s.pop).readByte adr = s.readByte adr := State.readByte_congr (by simp) (by simp) adr
@[simp] theorem State.getV_emit (s : State) (o : Output) (r : RegIx) : (s.emit o).getV r = s.getV r := State.getV_congr (by simp) r
@[simp] theorem State.readByte_emit (s : State) (o : Output) (adr : Word) : (s.emit o).readByte adr = s.readByte adr := State.readByte_congr (by simp) (by simp) adr
@[simp] theorem State.getV_takeRandom (s : State) (r : RegIx) : (s.takeRandom).getV r = s.getV r := State.getV_congr (by simp) r
@[simp] theorem State.readByte_takeRandom (s : State) (adr : Word) : (s.takeRandom).readByte adr = s.readByte adr := State.readByte_congr (by simp) (by simp) adr
@[simp] theorem State.getV_fetch (s : State) (r : RegIx) : (s.fetch).getV r = s.getV r := State.getV_congr (by simp) r
@[simp] theorem State.readByte_fetch (s : State) (adr : Word) : (s.fetch).readByte adr = s.readByte adr := State.readByte_congr (by simp) (by simp) adr
@[simp] theorem State.getV_raise (s : State) (e : FatalError) (r : RegIx) : (s.raise e).getV r = s.getV r := State.getV_congr (by simp) r
@[simp] theorem State.readByte_raise (s : State) (e : FatalError) (adr : Word) : (s.raise e).readByte adr = s.readByte adr := State.readByte_congr (by simp) (by simp) adr
@[simp] theorem State.getV_complete (s : State) (r : RegIx) : (s.complete).getV r = s.getV r := State.getV_congr (by simp) r
@[simp] theorem State.readByte_complete (s : State) (adr : Word) : (s.complete).readByte adr = s.readByte adr := State.readByte_congr (by simp) (by simp) adr
@[simp] theorem State.getV_writeByte (s : State) (a : Word) (b : Byte) (r : RegIx) : (s.writeByte a b).getV r = s.getV r := State.getV_congr (by simp) r
@[simp] theorem State.readByte_loadRegs (s : State) (a : Word) (x : RegIx) (adr : Word) : (s.loadRegs a x).readByte adr = s.readByte adr := State.readByte_congr (by simp) (by simp) adr
@[simp] theorem State.getV_postIndex (s : State) (a : Word) (x : RegIx) (r : RegIx) : (s.postIndex a x).getV r = s.getV r := State.getV_congr (by simp) r
@[simp] theorem State.readByte_postIndex (s : State) (a : Word) (x : RegIx) (adr : Word) : (s.postIndex a x).readByte adr = s.readByte adr := State.readByte_congr (by simp) (by simp) adr
@[simp] theorem State.readByte_logicQuirk (s : State) (adr : Word) : (s.logicQuirk).readByte adr = s.readByte adr := State.readByte_congr (by simp) (by simp) adr
@[simp] theorem State.getV_writeBytes (s : State) (a : Word) (bs : List Byte) (r : RegIx) : (s.writeBytes a bs).getV r = s.getV r := State.getV_congr (by simp) r

end Sys2Proof.Machine
end

