-- ==== Sys2Proof/Laws/Display.lean ====
section
/-! SUPPORT. What a sprite draw does to each cell and to the collision flag (R191, R193), in closed form. -/

namespace Sys2Proof.Machine

/-! ### Cells -/

@[simp] theorem Frame.cell_clear (row col : Nat) : Frame.clear.cell row col = false := by
  simp [Frame.cell, Frame.clear]

theorem Frame.cell_toggle (f : Frame) (row col r c : Nat) :
    (f.toggle row col).cell r c = (f.cell r c ^^ (decide (r % 32 = row % 32) && decide (c % 64 = col % 64))) := by
  unfold Frame.toggle Frame.cell
  by_cases hr : r % 32 = row % 32
  · by_cases hc : c % 64 = col % 64
    · simp [hr, hc]
    · simp [hr, hc, Ne.symm hc]
  · simp [hr, Ne.symm hr]

/-- Two framebuffers with the same cells are equal. -/
theorem Frame.ext_cell {f g : Frame} (h : ∀ row < 32, ∀ col < 64, f.cell row col = g.cell row col) : f = g := by
  apply Vector.ext
  intro r hr
  apply Vector.ext
  intro c hc
  have := h r hr c hc
  simpa [Frame.cell, Nat.mod_eq_of_lt hr, Nat.mod_eq_of_lt hc] using this

/-! ### One pixel -/

theorem Raster.cell_pixel (d : Raster) (bit : Bool) (row col r c : Nat) :
    (d.pixel bit row col).frame.cell r c =
      (d.frame.cell r c ^^ (bit && decide (r % 32 = row % 32) && decide (c % 64 = col % 64))) := by
  cases bit <;> simp [Raster.pixel, Frame.cell_toggle]

theorem Raster.hit_pixel (d : Raster) (bit : Bool) (row col : Nat) :
    (d.pixel bit row col).hit = (d.hit || (bit && d.frame.cell row col)) := by
  cases bit <;> simp [Raster.pixel]

/-! ### One row -/

/-- The column within the sprite of framebuffer column `c`, for a sprite at column `x0`. -/
def spriteCol (x0 c : Nat) : Nat := (c + (64 - x0 % 64)) % 64

/-- The row within the sprite of framebuffer row `r`, for a sprite at row `y0`. -/
def spriteLine (y0 r : Nat) : Nat := (r + (32 - y0 % 32)) % 32

theorem spriteCol_eq_iff (x0 c m : Nat) (hm : m < 64) : spriteCol x0 c = m ↔ c % 64 = (x0 + m) % 64 := by
  unfold spriteCol; omega

theorem spriteLine_eq_iff (y0 r m : Nat) (hm : m < 32) : spriteLine y0 r = m ↔ r % 32 = (y0 + m) % 32 := by
  unfold spriteLine; omega

theorem Raster.cell_foldl_pixel (row x0 : Nat) (b : Byte) (d : Raster) (r c m : Nat) (hm : m ≤ 8) :
    ((List.range m).foldl (fun d k => d.pixel (b.getLsbD (7 - k)) row (x0 + k)) d).frame.cell r c =
      (d.frame.cell r c ^^ (decide (r % 32 = row % 32) && decide (spriteCol x0 c < m) && b.getLsbD (7 - spriteCol x0 c))) := by
  induction m with
  | zero => simp
  | succ m ih =>
    rw [List.range_succ, List.foldl_append, List.foldl_cons, List.foldl_nil, Raster.cell_pixel, ih (by omega)]
    have hiff := spriteCol_eq_iff x0 c m (by omega)
    by_cases hr : r % 32 = row % 32
    · rcases Nat.lt_trichotomy (spriteCol x0 c) m with hlt | heq | hgt
      · have : ¬ c % 64 = (x0 + m) % 64 := fun e => by have := hiff.2 e; omega
        simp [hr, hlt, this, Nat.lt_succ_of_lt hlt]
      · have : c % 64 = (x0 + m) % 64 := hiff.1 heq
        simp [hr, heq, this]
      · have : ¬ c % 64 = (x0 + m) % 64 := fun e => by have := hiff.2 e; omega
        have h1 : ¬ spriteCol x0 c < m := by omega
        have h2 : ¬ spriteCol x0 c < m + 1 := by omega
        simp [hr, h1, h2, this]
    · simp [hr]

theorem Raster.hit_foldl_pixel (row x0 : Nat) (b : Byte) (d : Raster) (m : Nat) (hm : m ≤ 8) :
    ((List.range m).foldl (fun d k => d.pixel (b.getLsbD (7 - k)) row (x0 + k)) d).hit = true ↔
      d.hit = true ∨ ∃ k, k < m ∧ b.getLsbD (7 - k) = true ∧ d.frame.cell row (x0 + k) = true := by
  induction m with
  | zero => simp
  | succ m ih =>
    rw [List.range_succ, List.foldl_append, List.foldl_cons, List.foldl_nil, Raster.hit_pixel, Bool.or_eq_true,
      ih (by omega), Raster.cell_foldl_pixel _ _ _ _ _ _ m (by omega)]
    have hcol : spriteCol x0 (x0 + m) = m := (spriteCol_eq_iff x0 (x0 + m) m (by omega)).2 rfl
    simp only [hcol, Nat.lt_irrefl, decide_false, Bool.and_false, Bool.false_and, Bool.xor_false, Bool.and_eq_true]
    constructor
    · rintro ((h | ⟨k, hk, h⟩) | h)
      · exact .inl h
      · exact .inr ⟨k, by omega, h⟩
      · exact .inr ⟨m, by omega, h⟩
    · rintro (h | ⟨k, hk, h⟩)
      · exact .inl (.inl h)
      · rcases Nat.lt_succ_iff_lt_or_eq.1 hk with hlt | rfl
        · exact .inl (.inr ⟨k, hlt, h⟩)
        · exact .inr h

theorem Raster.cell_spriteRow (row x0 : Nat) (b : Byte) (d : Raster) (r c : Nat) :
    (d.spriteRow row x0 b).frame.cell r c =
      (d.frame.cell r c ^^ (decide (r % 32 = row % 32) && decide (spriteCol x0 c < 8) && b.getLsbD (7 - spriteCol x0 c))) :=
  Raster.cell_foldl_pixel row x0 b d r c 8 (Nat.le_refl _)

theorem Raster.hit_spriteRow (row x0 : Nat) (b : Byte) (d : Raster) :
    (d.spriteRow row x0 b).hit = true ↔
      d.hit = true ∨ ∃ k, k < 8 ∧ b.getLsbD (7 - k) = true ∧ d.frame.cell row (x0 + k) = true :=
  Raster.hit_foldl_pixel row x0 b d 8 (Nat.le_refl _)

/-! ### The cells a draw addresses -/

/-- The cells a draw addresses are pairwise distinct, even after wrap, so each is toggled at most once (R193). -/
theorem spriteCells_distinct (x0 y0 : Nat) {r c r' c' : Nat} (hr : r < 15) (hc : c < 8) (hr' : r' < 15) (hc' : c' < 8)
    (hrow : (y0 + r) % 32 = (y0 + r') % 32) (hcol : (x0 + c) % 64 = (x0 + c') % 64) : r = r' ∧ c = c' := by
  omega

/-! ### The sprite -/

/-- Whether a sprite at (x0, y0) with these row bytes has a set bit over cell (r, c). -/
def spriteBit (x0 y0 : Nat) (bs : List Byte) (r c : Nat) : Bool :=
  decide (spriteCol x0 c < 8) && (bs.getD (spriteLine y0 r) 0x00#8).getLsbD (7 - spriteCol x0 c)

/-- Every cell becomes its old value XOR the sprite's bit over it. -/
theorem Raster.cell_sprite (x0 y0 : Nat) (bs : List Byte) (d : Raster) (r c : Nat) (hl : bs.length ≤ 32) :
    (Raster.sprite x0 y0 bs d).frame.cell r c = (d.frame.cell r c ^^ spriteBit x0 y0 bs r c) := by
  induction bs generalizing y0 d with
  | nil => simp [Raster.sprite, spriteBit]
  | cons b bs ih =>
    simp only [List.length_cons] at hl
    rw [Raster.sprite, ih (y0 + 1) _ (by omega), Raster.cell_spriteRow, Bool.xor_assoc]
    congr 1
    unfold spriteBit
    have h0 := spriteLine_eq_iff y0 r 0 (by omega)
    by_cases hr : r % 32 = y0 % 32
    · have hz : spriteLine y0 r = 0 := h0.2 (by simpa using hr)
      have h31 : spriteLine (y0 + 1) r = 31 := (spriteLine_eq_iff (y0 + 1) r 31 (by omega)).2 (by omega)
      have hout : bs.getD 31 0x00#8 = 0x00#8 := List.getD_eq_default _ _ (by omega)
      rw [h31, hz, hout]
      simp [hr]
    · have hs : spriteLine y0 r = spriteLine (y0 + 1) r + 1 := by unfold spriteLine; omega
      rw [hs, List.getD_cons_succ]
      simp [hr]

/-- The collision flag: some set bit of the sprite lies over a cell that was 1. -/
theorem Raster.hit_sprite (x0 y0 : Nat) (bs : List Byte) (d : Raster) (hl : bs.length ≤ 32) :
    (Raster.sprite x0 y0 bs d).hit = true ↔
      d.hit = true ∨ ∃ j k, j < bs.length ∧ k < 8 ∧ (bs.getD j 0x00#8).getLsbD (7 - k) = true ∧
        d.frame.cell (y0 + j) (x0 + k) = true := by
  induction bs generalizing y0 d with
  | nil => simp [Raster.sprite]
  | cons b bs ih =>
    simp only [List.length_cons] at hl
    rw [Raster.sprite, ih (y0 + 1) _ (by omega), Raster.hit_spriteRow]
    have hcell : ∀ j k, j < bs.length → (d.spriteRow y0 x0 b).frame.cell (y0 + 1 + j) (x0 + k) = d.frame.cell (y0 + 1 + j) (x0 + k) := by
      intro j k hj
      have : ¬ (y0 + 1 + j) % 32 = y0 % 32 := by omega
      rw [Raster.cell_spriteRow]; simp [this]
    constructor
    · rintro ((h | ⟨k, hk, hb, hc⟩) | ⟨j, k, hj, hk, hb, hc⟩)
      · exact .inl h
      · exact .inr ⟨0, k, by simp, hk, by simpa using hb, by simpa using hc⟩
      · rw [hcell j k hj] at hc
        exact .inr ⟨j + 1, k, by simpa using hj, hk, by simpa using hb, by rwa [Nat.add_assoc, Nat.add_comm 1 j] at hc⟩
    · rintro (h | ⟨j, k, hj, hk, hb, hc⟩)
      · exact .inl (.inl h)
      · cases j with
        | zero => exact .inl (.inr ⟨k, hk, by simpa using hb, by simpa using hc⟩)
        | succ j =>
          have hj' : j < bs.length := by simpa using hj
          refine .inr ⟨j, k, hj', hk, by simpa using hb, ?_⟩
          rw [hcell j k hj', Nat.add_assoc, Nat.add_comm 1 j]
          exact hc

end Sys2Proof.Machine
end

