-- ==== Sys2Proof/Laws/Memory.lean ====
section
/-! SUPPORT. The laws of memory: reads after writes, and the canonical form, which every memory operation keeps. -/

namespace Sys2Proof.Machine

/-! ### Read after write -/

theorem Memory.read_write_self (font : Font) (m : Memory) (a : Nat) (b : Byte) (lo : Nat)
    (h : Memory.wfFrom font lo m = true) : Memory.read font (Memory.write font m a b) a = b := by
  induction m generalizing lo with
  | nil => unfold Memory.write; split <;> simp_all [Memory.read]
  | cons e rest ih =>
    obtain ⟨k, c⟩ := e
    simp only [Memory.wfFrom, Bool.and_eq_true, decide_eq_true_eq] at h
    have hrest : ∀ lo', a < lo' → Memory.wfFrom font lo' rest = true → Memory.read font rest a = Memory.unlisted font a := by
      intro lo' hlo hw
      clear ih h
      induction rest generalizing lo' with
      | nil => rfl
      | cons e rest ih =>
        obtain ⟨k', c'⟩ := e
        simp only [Memory.wfFrom, Bool.and_eq_true, decide_eq_true_eq] at hw
        have : a ≠ k' := by omega
        simp only [Memory.read, this, if_false]
        exact ih (k' + 1) (by omega) hw.2
    unfold Memory.write
    split
    · rename_i hlt
      split
      · rename_i hb
        have : a ≠ k := by omega
        simp only [Memory.read, this, if_false]
        rw [hrest (k + 1) (by omega) h.2, hb]
      · simp [Memory.read]
    · split
      · rename_i heq
        split
        · rename_i hb; rw [hrest (k + 1) (by omega) h.2, hb]
        · simp [Memory.read]
      · rename_i hne
        simp only [Memory.read, hne, if_false]
        exact ih (k + 1) h.2

theorem Memory.read_write_of_ne (font : Font) (m : Memory) {a c : Nat} (b : Byte) (h : c ≠ a) :
    Memory.read font (Memory.write font m a b) c = Memory.read font m c := by
  induction m with
  | nil => unfold Memory.write; split <;> simp [Memory.read, h]
  | cons e rest ih =>
    obtain ⟨k, d⟩ := e
    unfold Memory.write
    split
    · split <;> simp [Memory.read, h]
    · split
      · rename_i heq; subst heq; split <;> simp [Memory.read, h]
      · simp [Memory.read, ih]

/-! ### The canonical form -/

theorem Memory.wfFrom_write (font : Font) (m : Memory) (a : Nat) (b : Byte) (lo : Nat) (ha : a < 0x1000) (hlo : lo ≤ a)
    (h : Memory.wfFrom font lo m = true) : Memory.wfFrom font lo (Memory.write font m a b) = true := by
  have mono : ∀ (m : Memory) (l l' : Nat), l ≤ l' → Memory.wfFrom font l' m = true → Memory.wfFrom font l m = true := by
    intro m l l' hl hw
    cases m with
    | nil => rfl
    | cons e rest =>
      obtain ⟨k, c⟩ := e
      simp only [Memory.wfFrom, Bool.and_eq_true, decide_eq_true_eq] at hw ⊢
      exact ⟨⟨⟨by omega, hw.1.1.2⟩, hw.1.2⟩, hw.2⟩
  induction m generalizing lo with
  | nil => unfold Memory.write; split <;> simp_all [Memory.wfFrom]
  | cons e rest ih =>
    obtain ⟨k, c⟩ := e
    have h' := h
    simp only [Memory.wfFrom, Bool.and_eq_true, decide_eq_true_eq] at h'
    unfold Memory.write
    split
    · split
      · exact h
      · rename_i hb
        simp only [Memory.wfFrom, Bool.and_eq_true, decide_eq_true_eq]
        exact ⟨⟨⟨hlo, ha⟩, hb⟩, ⟨⟨by omega, h'.1.1.2⟩, h'.1.2⟩, h'.2⟩
    · split
      · rename_i heq
        split
        · exact mono _ _ _ (by omega) h'.2
        · rename_i hb
          simp only [Memory.wfFrom, Bool.and_eq_true, decide_eq_true_eq]
          exact ⟨⟨⟨hlo, ha⟩, hb⟩, by rw [heq]; exact h'.2⟩
      · simp only [Memory.wfFrom, Bool.and_eq_true, decide_eq_true_eq]
        exact ⟨h'.1, ih (k + 1) (by omega) h'.2⟩

/-- A write keeps the canonical form. -/
theorem Memory.wf_write (font : Font) (m : Memory) (a : Nat) (b : Byte) (ha : a < 0x1000) (h : Memory.wf font m = true) :
    Memory.wf font (Memory.write font m a b) = true :=
  Memory.wfFrom_write font m a b 0 ha (Nat.zero_le _) h

/-- Memory at reset, which lists nothing, has the canonical form. -/
theorem Memory.wf_resetWith (cfg : Config) : Memory.wf cfg.font (State.resetWith cfg).mem = true := rfl

theorem Memory.wf_reset : Memory.wf State.reset.cfg.font State.reset.mem = true := rfl

/-- An address below every listed one reads as the reset contents. -/
theorem Memory.read_of_lt (font : Font) (m : Memory) (lo a : Nat) (h : Memory.wfFrom font lo m = true) (ha : a < lo) :
    Memory.read font m a = Memory.unlisted font a := by
  induction m generalizing lo with
  | nil => rfl
  | cons e rest ih =>
    obtain ⟨k, c⟩ := e
    simp only [Memory.wfFrom, Bool.and_eq_true, decide_eq_true_eq] at h
    have : a ≠ k := by omega
    simp only [Memory.read, this, if_false]
    exact ih (k + 1) h.2 (by omega)

/-- Canonical memories that read alike are equal data. -/
theorem Memory.ext_of_wfFrom (font : Font) (m n : Memory) (lo : Nat) (hm : Memory.wfFrom font lo m = true)
    (hn : Memory.wfFrom font lo n = true) (h : ∀ a, Memory.read font m a = Memory.read font n a) : m = n := by
  induction m generalizing n lo with
  | nil =>
    cases n with
    | nil => rfl
    | cons e rest =>
      obtain ⟨k, c⟩ := e
      simp only [Memory.wfFrom, Bool.and_eq_true, decide_eq_true_eq] at hn
      exact absurd (by simpa [Memory.read] using (h k).symm) hn.1.2
  | cons e rest ih =>
    obtain ⟨k, c⟩ := e
    simp only [Memory.wfFrom, Bool.and_eq_true, decide_eq_true_eq] at hm
    cases n with
    | nil => exact absurd (by simpa [Memory.read] using h k) hm.1.2
    | cons e' rest' =>
      obtain ⟨k', c'⟩ := e'
      simp only [Memory.wfFrom, Bool.and_eq_true, decide_eq_true_eq] at hn
      have hk : k = k' := by
        rcases Nat.lt_trichotomy k k' with hlt | heq | hgt
        · have := h k
          simp only [Memory.read, if_true, Nat.ne_of_lt hlt, if_false] at this
          rw [Memory.read_of_lt font rest' (k' + 1) k hn.2 (by omega)] at this
          exact absurd this hm.1.2
        · exact heq
        · have := h k'
          simp only [Memory.read, if_true, Nat.ne_of_lt hgt, if_false] at this
          rw [Memory.read_of_lt font rest (k + 1) k' hm.2 (by omega)] at this
          exact absurd this.symm hn.1.2
      subst hk
      have hc : c = c' := by simpa [Memory.read] using h k
      subst hc
      have hr : rest = rest' := by
        refine ih rest' (k + 1) hm.2 hn.2 fun a => ?_
        by_cases ha : a = k
        · subst ha
          rw [Memory.read_of_lt font rest _ _ hm.2 (by omega), Memory.read_of_lt font rest' _ _ hn.2 (by omega)]
        · simpa [Memory.read, ha] using h a
      rw [hr]

/-! ### Addresses -/

theorem wrap12_toNat (a : Word) : (wrap12 a).toNat = a.toNat % 0x1000 := by
  simp [wrap12, BitVec.toNat_umod]

theorem wrap12_lt (a : Word) : (wrap12 a).toNat < 0x1000 := by
  rw [wrap12_toNat]; exact Nat.mod_lt _ (by decide)

@[simp] theorem wrap12_wrap12 (a : Word) : wrap12 (wrap12 a) = wrap12 a := by
  apply BitVec.eq_of_toNat_eq; simp [wrap12_toNat]

/-- Wrapping a summand first does not change the wrapped sum. -/
theorem wrap12_add_wrap12 (a b : Word) : wrap12 (wrap12 a + b) = wrap12 (a + b) := by
  apply BitVec.eq_of_toNat_eq; simp [wrap12_toNat, BitVec.toNat_add]

/-- An address below 0x1000 is its own wrap. -/
theorem wrap12_of_lt {a : Word} (h : a.toNat < 0x1000) : wrap12 a = a := by
  apply BitVec.eq_of_toNat_eq; rw [wrap12_toNat, Nat.mod_eq_of_lt h]

/-! ### The byte operations of the state -/

@[simp] theorem State.readByte_wrap12 (s : State) (a : Word) : s.readByte (wrap12 a) = s.readByte a := by
  simp [State.readByte]

theorem State.readByte_writeByte_self (s : State) {a c : Word} (b : Byte) (h : wrap12 c = wrap12 a)
    (hw : Memory.wf s.cfg.font s.mem = true) : (s.writeByte a b).readByte c = b := by
  simp only [State.readByte, State.writeByte, h]
  exact Memory.read_write_self _ _ _ _ 0 hw

@[simp] theorem State.readByte_writeByte_of_ne (s : State) {a c : Word} (b : Byte) (h : wrap12 c ≠ wrap12 a) :
    (s.writeByte a b).readByte c = s.readByte c := by
  simp only [State.readByte, State.writeByte]
  exact Memory.read_write_of_ne _ _ _ fun e => h (BitVec.eq_of_toNat_eq e)

/-- MemWrite keeps the canonical form. -/
theorem State.wf_writeByte (s : State) (a : Word) (b : Byte) (h : Memory.wf s.cfg.font s.mem = true) :
    Memory.wf (s.writeByte a b).cfg.font (s.writeByte a b).mem = true :=
  Memory.wf_write _ _ _ _ (wrap12_lt a) h

/-- A run of writes keeps the canonical form. -/
theorem State.wf_writeBytes (s : State) (a : Word) (bs : List Byte) (h : Memory.wf s.cfg.font s.mem = true) :
    Memory.wf (s.writeBytes a bs).cfg.font (s.writeBytes a bs).mem = true := by
  induction bs generalizing s a with
  | nil => exact h
  | cons b bs ih => exact ih _ _ (s.wf_writeByte a b h)

/-- A run of writes leaves every byte outside it. -/
theorem State.readByte_writeBytes_outside (s : State) (a c : Word) (bs : List Byte)
    (h : ∀ k, k < bs.length → wrap12 c ≠ wrap12 (a + BitVec.ofNat 16 k)) :
    (s.writeBytes a bs).readByte c = s.readByte c := by
  induction bs generalizing s a with
  | nil => rfl
  | cons b bs ih =>
    have h0 := h 0 (by simp)
    rw [State.writeBytes, ih]
    · exact s.readByte_writeByte_of_ne b (by simpa using h0)
    · intro k hk
      have := h (k + 1) (by simpa using hk)
      rwa [show a + 1#16 + BitVec.ofNat 16 k = a + BitVec.ofNat 16 (k + 1) by
        rw [BitVec.add_assoc, Nat.add_comm k 1, BitVec.ofNat_add]]

/-- A run of at most 4096 writes puts each byte at its own address. -/
theorem State.readByte_writeBytes (s : State) (a : Word) (bs : List Byte) (hl : bs.length ≤ 0x1000)
    (hw : Memory.wf s.cfg.font s.mem = true) (k : Nat) (hk : k < bs.length) :
    (s.writeBytes a bs).readByte (a + BitVec.ofNat 16 k) = bs[k] := by
  induction bs generalizing s a k with
  | nil => exact absurd hk (by simp)
  | cons b bs ih =>
    simp only [List.length_cons] at hl hk
    rw [State.writeBytes]
    cases k with
    | zero =>
      rw [State.readByte_writeBytes_outside]
      · simpa using s.readByte_writeByte_self b rfl hw
      · intro j hj e
        have e' := congrArg BitVec.toNat e
        simp only [wrap12_toNat, BitVec.toNat_add, BitVec.toNat_ofNat] at e'
        omega
    | succ k =>
      have := ih (s.writeByte a b) (a + 1#16) (by omega) (s.wf_writeByte a b hw) k (by omega)
      rwa [show a + 1#16 + BitVec.ofNat 16 k = a + BitVec.ofNat 16 (k + 1) by
        rw [BitVec.add_assoc, Nat.add_comm k 1, BitVec.ofNat_add]] at this

end Sys2Proof.Machine
end

