-- ==== Sys2Proof/Laws/Ops.lean ====
section
/-! SUPPORT. One lemma per shared operation: everything it answers, for proofs to cite instead of unfolding it. -/

namespace Sys2Proof.Machine

/-! ### Flags -/

@[simp] theorem flagOf_true : flagOf true = 0x01#8 := rfl
@[simp] theorem flagOf_false : flagOf false = 0x00#8 := rfl

theorem addCarry_fst (a b : Byte) : (addCarry a b).1 = a + b := by
  apply BitVec.eq_of_toNat_eq; simp [addCarry, BitVec.toNat_add]

theorem addCarry_snd (a b : Byte) : (addCarry a b).2 = flagOf (decide (255 < a.toNat + b.toNat)) := rfl

theorem subNoBorrow_fst (a b : Byte) : (subNoBorrow a b).1 = a - b := by
  apply BitVec.eq_of_toNat_eq
  simp only [subNoBorrow, BitVec.toNat_ofInt, BitVec.toNat_sub]
  omega

theorem subNoBorrow_snd (a b : Byte) : (subNoBorrow a b).2 = flagOf (decide (b.toNat ≤ a.toNat)) := rfl

theorem shiftRight1_fst (v : Byte) : (shiftRight1 v).1 = v >>> 1 := rfl
theorem shiftRight1_snd (v : Byte) : (shiftRight1 v).2 = flagOf (v.getLsbD 0) := rfl
theorem shiftLeft1_fst (v : Byte) : (shiftLeft1 v).1 = v <<< 1 := rfl
theorem shiftLeft1_snd (v : Byte) : (shiftLeft1 v).2 = flagOf (v.getLsbD 7) := rfl

/-! ### Operands -/

theorem addrWord_toNat (nnn : Addr) : (addrWord nnn).toNat = nnn.toNat := by
  simp [addrWord]; omega

theorem byteWord_toNat (b : Byte) : (byteWord b).toNat = b.toNat := by
  simp [byteWord]; omega

@[simp] theorem wrap12_addrWord (nnn : Addr) : wrap12 (addrWord nnn) = addrWord nnn :=
  wrap12_of_lt (by rw [addrWord_toNat]; omega)

/-- The glyph address, which needs no wrap (R173). -/
theorem glyphAddr_toNat (b : Byte) : (glyphAddr b).toNat = 0x50 + 5 * b.toNat := by
  simp only [glyphAddr, BitVec.toNat_add, BitVec.toNat_mul, byteWord_toNat, BitVec.toNat_ofNat]; omega

@[simp] theorem State.length_regsUpTo (s : State) (x : RegIx) : (s.regsUpTo x).length = x.toNat + 1 := by
  simp [State.regsUpTo]; omega

theorem State.getElem_regsUpTo (s : State) (x : RegIx) (k : Nat) (h : k < (s.regsUpTo x).length) :
    (s.regsUpTo x)[k] = s.getV (BitVec.ofNat 4 k) := by
  have hk : k < 16 := by have := s.length_regsUpTo x; omega
  simp [State.regsUpTo, State.getV, Nat.mod_eq_of_lt hk]

@[simp] theorem State.length_readBytes (s : State) (a : Word) (n : Nat) : (s.readBytes a n).length = n := by
  simp [State.readBytes]

theorem State.getElem_readBytes (s : State) (a : Word) (n k : Nat) (h : k < (s.readBytes a n).length) :
    (s.readBytes a n)[k] = s.readByte (a + BitVec.ofNat 16 k) := by
  simp [State.readBytes]

/-- Fx65's load: V0..Vx from memory, the other registers as they were (R176). -/
theorem State.getV_loadRegs (s : State) (a : Word) (x r : RegIx) :
    (s.loadRegs a x).getV r = if r.toNat ≤ x.toNat then s.readByte (a + BitVec.ofNat 16 r.toNat) else s.getV r := by
  simp [State.loadRegs, State.getV]

/-- The key scan answers the least pressed key (R203). -/
theorem State.firstKey_eq_some (s : State) (k : Fin 16) :
    s.firstKey = some k ↔ s.key[k] = true ∧ ∀ j : Fin 16, j < k → s.key[j] = false := by
  unfold State.firstKey
  rw [List.find?_eq_some_iff_getElem]
  constructor
  · rintro ⟨hk, i, hi, he, hlt⟩
    refine ⟨by simpa using hk, fun j hj => ?_⟩
    have hik : i = k.val := by rw [← he]; simp
    have := hlt j.val (by have : j.val < k.val := hj; omega)
    simpa using this
  · rintro ⟨hk, hlt⟩
    refine ⟨by simpa using hk, k.val, by simp, by simp, fun j hj => ?_⟩
    have := hlt ⟨j, by omega⟩ hj
    simpa using this

theorem State.firstKey_eq_none (s : State) : s.firstKey = none ↔ ∀ j : Fin 16, s.key[j] = false := by
  simp [State.firstKey]

/-! ### Skips, fetch and step -/

/-- A taken skip adds 2, wrapped; an untaken one leaves PC (R120). -/
theorem State.skipIf_pc_toNat (s : State) (c : Bool) :
    (s.skipIf c).pc.toNat = if c then (s.pc.toNat + 2) % 0x1000 else s.pc.toNat := by
  cases c <;> simp [wrap12_toNat, BitVec.toNat_add]

/-- The fetched word as a number: the byte at PC high, the byte after it low (R101). -/
theorem State.fetchWord_toNat (s : State) :
    s.fetchWord.toNat = (s.readByte s.pc).toNat * 256 + (s.readByte (s.pc + 1#16)).toNat := wordOfBytes_toNat _ _

theorem State.enabled_iff (s : State) :
    s.enabled = true ↔ (s.execState = .running ∨ s.execState = .stepping) ∧ s.fault = none := by
  simp [State.enabled]

theorem dispatch_ok {s : State} {i : Instr} (h : decodeWord s.opcode = .ok i) : dispatch s = exec i s := by
  simp [dispatch, h]

theorem dispatch_error {s : State} {r : Reject} (h : decodeWord s.opcode = .error r) :
    dispatch s = .next (s.raise .invalidOpcode) := by
  simp [dispatch, h]

/-- Every instruction answers a next state, in every state (R61, R222). -/
theorem exec_answers (i : Instr) (s : State) : ∃ t, exec i s = .next t := by
  cases i <;> simp only [exec]
  case ret => unfold execRet; split <;> exact ⟨_, rfl⟩
  case call => unfold execCall; split <;> exact ⟨_, rfl⟩
  case ldVxK => unfold execLdVxK; split <;> exact ⟨_, rfl⟩
  case ldStVx => simp only [execLdStVx]; split <;> exact ⟨_, rfl⟩
  all_goals exact ⟨_, rfl⟩

/-- Everything an instruction step can do. -/
theorem instructionStep_cases (s : State) :
    (s.enabled = false ∧ instructionStep s = .next s) ∨
      (∃ i, s.enabled = true ∧ decodeWord s.fetchWord = .ok i ∧ instructionStep s = completed (exec i s.fetch)) ∨
      (∃ r, s.enabled = true ∧ decodeWord s.fetchWord = .error r ∧
        instructionStep s = .next (s.fetch.raise .invalidOpcode).complete) := by
  unfold instructionStep
  split
  · rename_i h
    cases hd : decodeWord s.fetchWord with
    | ok i => exact .inr (.inl ⟨i, h, rfl, by rw [dispatch_ok (s := s.fetch) hd]⟩)
    | error r => exact .inr (.inr ⟨r, h, rfl, by rw [dispatch_error (s := s.fetch) hd]; rfl⟩)
  · rename_i h
    exact .inl ⟨by simpa using h, rfl⟩

end Sys2Proof.Machine
end

