-- ==== Sys2Proof/Laws/Behaviour.lean ====
section
/-! SUPPORT. What the environment's turn leaves as it was, and what one step of a behaviour is. -/

namespace Sys2Proof.Machine

variable (s : State) (e : Event) (r : Byte)

@[simp] theorem State.offer_mem : (s.offer e r).mem = s.mem := rfl
@[simp] theorem State.offer_pc : (s.offer e r).pc = s.pc := rfl
@[simp] theorem State.offer_dt : (s.offer e r).dt = s.dt := rfl
@[simp] theorem State.offer_st : (s.offer e r).st = s.st := rfl
@[simp] theorem State.offer_execState : (s.offer e r).execState = s.execState := rfl
@[simp] theorem State.offer_fault : (s.offer e r).fault = s.fault := rfl
@[simp] theorem State.offer_cfg : (s.offer e r).cfg = s.cfg := rfl
@[simp] theorem State.offer_inputs : (s.offer e r).inputs = [e] := rfl
@[simp] theorem State.offer_rnd : (s.offer e r).rnd = [r] := rfl
@[simp] theorem State.offer_enabled : (s.offer e r).enabled = s.enabled := rfl
@[simp] theorem State.offer_fetchWord : (s.offer e r).fetchWord = s.fetchWord := rfl
@[simp] theorem State.offer_nextEvent : (s.offer e r).nextEvent = e := rfl

/-- A step after the environment's turn runs the event it gave, and no event is left over. -/
theorem step_offer : step (s.offer e r) = runEvent e { s with inputs := [], rnd := [r] } := rfl

/-- A step of an admitted behaviour, as the event that made it. -/
theorem Behaviour.Admitted.runEvent_eq {b : Behaviour} (h : b.Admitted) (n : Nat) :
    runEvent (b.event n) { b.state n with inputs := [], rnd := [b.draw n] } = .next (b.state (n + 1)) := (h n).2

end Sys2Proof.Machine
end

