-- ==== Sys2Proof/Laws/PerInstr.lean ====
section
/-! SUPPORT. The family EncodesRow: the encoding of each instruction has the fixed digits of its own row of R84 and is a well-formed
word. One lemma per constructor of Instr. -/

namespace Sys2Proof.Laws.EncodesRow

/-- The row of every instruction is one of the 34. -/
theorem row_mem (i : Instr) : i.row ∈ opcodeRows := by
  cases i <;> (dsimp only [Instr.row]; decide)

/-- The encoding of the instruction is admitted by its row, and its row is one of the 34. -/
def Statement (i : Instr) : Prop := i.row.admits (encode i) = true ∧ i.row ∈ opcodeRows

theorem cls : Statement .cls :=
  ⟨by decide, row_mem _⟩
theorem ret : Statement .ret :=
  ⟨by decide, row_mem _⟩
theorem jp (nnn : Addr) : Statement (.jp nnn) :=
  ⟨by rw [OpcodeRow.admits, encode, Instr.row, encA_mask]; decide, row_mem _⟩
theorem call (nnn : Addr) : Statement (.call nnn) :=
  ⟨by rw [OpcodeRow.admits, encode, Instr.row, encA_mask]; decide, row_mem _⟩
theorem seImm (x : RegIx) (nn : Byte) : Statement (.seImm x nn) :=
  ⟨by rw [OpcodeRow.admits, encode, Instr.row, encXB_mask]; decide, row_mem _⟩
theorem sneImm (x : RegIx) (nn : Byte) : Statement (.sneImm x nn) :=
  ⟨by rw [OpcodeRow.admits, encode, Instr.row, encXB_mask]; decide, row_mem _⟩
theorem seReg (x y : RegIx) : Statement (.seReg x y) :=
  ⟨by rw [OpcodeRow.admits, encode, Instr.row, encXY_mask]; decide, row_mem _⟩
theorem ldImm (x : RegIx) (nn : Byte) : Statement (.ldImm x nn) :=
  ⟨by rw [OpcodeRow.admits, encode, Instr.row, encXB_mask]; decide, row_mem _⟩
theorem addImm (x : RegIx) (nn : Byte) : Statement (.addImm x nn) :=
  ⟨by rw [OpcodeRow.admits, encode, Instr.row, encXB_mask]; decide, row_mem _⟩
theorem ldReg (x y : RegIx) : Statement (.ldReg x y) :=
  ⟨by rw [OpcodeRow.admits, encode, Instr.row, encXY_mask]; decide, row_mem _⟩
theorem orReg (x y : RegIx) : Statement (.orReg x y) :=
  ⟨by rw [OpcodeRow.admits, encode, Instr.row, encXY_mask]; decide, row_mem _⟩
theorem andReg (x y : RegIx) : Statement (.andReg x y) :=
  ⟨by rw [OpcodeRow.admits, encode, Instr.row, encXY_mask]; decide, row_mem _⟩
theorem xorReg (x y : RegIx) : Statement (.xorReg x y) :=
  ⟨by rw [OpcodeRow.admits, encode, Instr.row, encXY_mask]; decide, row_mem _⟩
theorem addReg (x y : RegIx) : Statement (.addReg x y) :=
  ⟨by rw [OpcodeRow.admits, encode, Instr.row, encXY_mask]; decide, row_mem _⟩
theorem sub (x y : RegIx) : Statement (.sub x y) :=
  ⟨by rw [OpcodeRow.admits, encode, Instr.row, encXY_mask]; decide, row_mem _⟩
theorem shr (x y : RegIx) : Statement (.shr x y) :=
  ⟨by rw [OpcodeRow.admits, encode, Instr.row, encXY_mask]; decide, row_mem _⟩
theorem subn (x y : RegIx) : Statement (.subn x y) :=
  ⟨by rw [OpcodeRow.admits, encode, Instr.row, encXY_mask]; decide, row_mem _⟩
theorem shl (x y : RegIx) : Statement (.shl x y) :=
  ⟨by rw [OpcodeRow.admits, encode, Instr.row, encXY_mask]; decide, row_mem _⟩
theorem sneReg (x y : RegIx) : Statement (.sneReg x y) :=
  ⟨by rw [OpcodeRow.admits, encode, Instr.row, encXY_mask]; decide, row_mem _⟩
theorem ldI (nnn : Addr) : Statement (.ldI nnn) :=
  ⟨by rw [OpcodeRow.admits, encode, Instr.row, encA_mask]; decide, row_mem _⟩
theorem jpV0 (nnn : Addr) : Statement (.jpV0 nnn) :=
  ⟨by rw [OpcodeRow.admits, encode, Instr.row, encA_mask]; decide, row_mem _⟩
theorem rnd (x : RegIx) (nn : Byte) : Statement (.rnd x nn) :=
  ⟨by rw [OpcodeRow.admits, encode, Instr.row, encXB_mask]; decide, row_mem _⟩
theorem drw (x y : RegIx) (n : Nibble) : Statement (.drw x y n) :=
  ⟨by rw [OpcodeRow.admits, encode, Instr.row, encXY_mask_op]; decide, row_mem _⟩
theorem skp (x : RegIx) : Statement (.skp x) :=
  ⟨by rw [OpcodeRow.admits, encode, Instr.row, encXB_mask_nn]; decide, row_mem _⟩
theorem sknp (x : RegIx) : Statement (.sknp x) :=
  ⟨by rw [OpcodeRow.admits, encode, Instr.row, encXB_mask_nn]; decide, row_mem _⟩
theorem ldVxDt (x : RegIx) : Statement (.ldVxDt x) :=
  ⟨by rw [OpcodeRow.admits, encode, Instr.row, encXB_mask_nn]; decide, row_mem _⟩
theorem ldVxK (x : RegIx) : Statement (.ldVxK x) :=
  ⟨by rw [OpcodeRow.admits, encode, Instr.row, encXB_mask_nn]; decide, row_mem _⟩
theorem ldDtVx (x : RegIx) : Statement (.ldDtVx x) :=
  ⟨by rw [OpcodeRow.admits, encode, Instr.row, encXB_mask_nn]; decide, row_mem _⟩
theorem ldStVx (x : RegIx) : Statement (.ldStVx x) :=
  ⟨by rw [OpcodeRow.admits, encode, Instr.row, encXB_mask_nn]; decide, row_mem _⟩
theorem addIVx (x : RegIx) : Statement (.addIVx x) :=
  ⟨by rw [OpcodeRow.admits, encode, Instr.row, encXB_mask_nn]; decide, row_mem _⟩
theorem ldFVx (x : RegIx) : Statement (.ldFVx x) :=
  ⟨by rw [OpcodeRow.admits, encode, Instr.row, encXB_mask_nn]; decide, row_mem _⟩
theorem ldBVx (x : RegIx) : Statement (.ldBVx x) :=
  ⟨by rw [OpcodeRow.admits, encode, Instr.row, encXB_mask_nn]; decide, row_mem _⟩
theorem ldMemVx (x : RegIx) : Statement (.ldMemVx x) :=
  ⟨by rw [OpcodeRow.admits, encode, Instr.row, encXB_mask_nn]; decide, row_mem _⟩
theorem ldVxMem (x : RegIx) : Statement (.ldVxMem x) :=
  ⟨by rw [OpcodeRow.admits, encode, Instr.row, encXB_mask_nn]; decide, row_mem _⟩

/-- Every instruction's encoding is a well-formed word. -/
theorem wellFormed_encode {i : Instr} (h : Statement i) : Word.wellFormed (encode i) = true :=
  List.any_eq_true.2 ⟨i.row, h.2, h.1⟩

end Sys2Proof.Laws.EncodesRow
end

