-- ==== Sys2Proof/Tests/Slice0.lean ====
section
/-! SUPPORT. The model's own tests: words written out from R84, vectors of spec/95_test_vectors.md, and a witness for every
statement with hypotheses. -/

namespace Sys2Proof.Tests

open Sys2Proof.Machine

/-! ### Helpers -/

/-- A field of the next state of an outcome. -/
def out {α : Type} (r : Result) (f : State → α) : Option α :=
  match r with
  | .next t => some (f t)
  | _ => none

/-- The reset state with some registers set. -/
def regs (l : List (RegIx × Byte)) : State := l.foldl (fun s p => s.setV p.1 p.2) State.reset

/-- A state with other quirks. -/
def quirked (shift jump logic loadstore : Bool) (s : State) : State :=
  { s with cfg := { s.cfg with quirks := ⟨shift, jump, logic, loadstore⟩ } }

/-- One step with a word placed at PC. -/
def run (w : Nat) (s : State) : Result := (step (s.withFetchWord 16 w))

/-! ### WellFormed: an ill-formed word for each class of R86 -/

theorem test_wellFormed : [0x00E0#16, 0x00EE#16, 0x1ABC#16, 0x5120#16, 0x8AB4#16, 0x9120#16, 0xE3A1#16, 0xFA33#16].all
    Word.wellFormed = true := by decide
theorem test_illFormed_0nnn : Word.wellFormed 0x0123#16 = false := by decide
theorem test_illFormed_5xyN : Word.wellFormed 0x5121#16 = false := by decide
theorem test_illFormed_8xyN : Word.wellFormed 0x8128#16 = false := by decide
theorem test_illFormed_9xyN : Word.wellFormed 0x9128#16 = false := by decide
theorem test_illFormed_ExNN : Word.wellFormed 0xE000#16 = false := by decide
theorem test_illFormed_FxNN : Word.wellFormed 0xF0FF#16 = false := by decide

/-! ### Decode: each constructor's word, written out from R84 -/

theorem test_decode_flow :
    [0x00EE#16, 0x1ABC, 0x2ABC, 0x3A7F, 0x4A7F, 0x5AB0, 0x9AB0, 0xBABC].map decodeWord =
      [.ok .ret, .ok (.jp 0xABC), .ok (.call 0xABC), .ok (.seImm 0xA 0x7F), .ok (.sneImm 0xA 0x7F), .ok (.seReg 0xA 0xB),
       .ok (.sneReg 0xA 0xB), .ok (.jpV0 0xABC)] := by decide
theorem test_decode_alu_imm :
    [0x6A7F#16, 0x7A7F, 0xCA7F].map decodeWord = [.ok (.ldImm 0xA 0x7F), .ok (.addImm 0xA 0x7F), .ok (.rnd 0xA 0x7F)] := by decide
theorem test_decode_alu_reg :
    [0x8AB0#16, 0x8AB1, 0x8AB2, 0x8AB3, 0x8AB4, 0x8AB5, 0x8AB6, 0x8AB7, 0x8ABE].map decodeWord =
      [.ok (.ldReg 0xA 0xB), .ok (.orReg 0xA 0xB), .ok (.andReg 0xA 0xB), .ok (.xorReg 0xA 0xB), .ok (.addReg 0xA 0xB),
       .ok (.sub 0xA 0xB), .ok (.shr 0xA 0xB), .ok (.subn 0xA 0xB), .ok (.shl 0xA 0xB)] := by decide
theorem test_decode_index :
    [0xAABC#16, 0xFA1E, 0xFA29, 0xFA33, 0xFA55, 0xFA65].map decodeWord =
      [.ok (.ldI 0xABC), .ok (.addIVx 0xA), .ok (.ldFVx 0xA), .ok (.ldBVx 0xA), .ok (.ldMemVx 0xA), .ok (.ldVxMem 0xA)] := by
  decide
theorem test_decode_display : [0x00E0#16, 0xDAB7].map decodeWord = [.ok .cls, .ok (.drw 0xA 0xB 0x7)] := by decide
theorem test_decode_keys_timers :
    [0xEA9E#16, 0xEAA1, 0xFA07, 0xFA0A, 0xFA15, 0xFA18].map decodeWord =
      [.ok (.skp 0xA), .ok (.sknp 0xA), .ok (.ldVxDt 0xA), .ok (.ldVxK 0xA), .ok (.ldDtVx 0xA), .ok (.ldStVx 0xA)] := by decide
/-- Vectors X3 to X9: words that are no instruction, each rejected by its class. -/
theorem test_decode_invalid :
    [0x0000#16, 0x0123, 0x5121, 0x9128, 0x8128, 0xE000, 0xF0FF].map decodeWord =
      [.error .invalid0nnn, .error .invalid0nnn, .error .invalid5xyN, .error .invalid9xyN, .error .invalid8xyN,
       .error .invalidExNN, .error .invalidFxNN] := by decide
theorem test_decode_truncated : decode [0x60#8] = .error .tooFewBytes := by decide
/-- R91: the listing word 0x6005 is the bytes 60 05. -/
theorem test_encodeBytes : encodeBytes (.ldImm 0 0x05) = [0x60#8, 0x05#8] := by decide
theorem test_decodeTableWord : decodeTableWord 16 0x8AB4 = some (.addReg 0xA 0xB) := by decide

/-! ### One step, on the vectors of spec/95_test_vectors.md -/

/-- Vector B1. -/
theorem test_seImm_taken : out (run 0x3342 (regs [(3, 0x42)])) (fun t => t.pc) = some 0x204 := by decide
/-- Vector B2. -/
theorem test_seImm_untaken : out (run 0x3342 (regs [(3, 0x41)])) (fun t => t.pc) = some 0x202 := by decide
/-- Vector B3. -/
theorem test_sneImm_wraps : out (run 0x4300 { regs [(3, 0x01)] with pc := 0xFFE }) (fun t => t.pc) = some 0x002 := by decide
/-- Vector B4. -/
theorem test_seReg : out (run 0x5110 (regs [(1, 9)])) (fun t => t.pc) = some 0x204 := by decide
/-- Vector B5. -/
theorem test_sneReg_taken : out (run 0x9120 (regs [(1, 7), (2, 8)])) (fun t => t.pc) = some 0x204 := by decide
/-- Vector B6. -/
theorem test_sneReg_untaken : out (run 0x9120 (regs [(1, 7), (2, 7)])) (fun t => t.pc) = some 0x202 := by decide
/-- Vector B7. -/
theorem test_jp : out (run 0x1ABC State.reset) (fun t => t.pc) = some 0xABC := by decide
/-- Vector B8. -/
theorem test_jp_odd : out (run 0x1201 State.reset) (fun t => t.pc) = some 0x201 := by decide
/-- Vector B9. -/
theorem test_jpV0_wraps : out (run 0xBFFF (regs [(0, 2)])) (fun t => t.pc) = some 0x001 := by decide
/-- Vectors B11 and E15. -/
theorem test_jpV0_quirk : out (run 0xB3FF (quirked false true false false (regs [(3, 5), (0, 0x77)]))) (fun t => t.pc) = some 0x404 := by decide
/-- Vector B14. -/
theorem test_call_wraps : out (run 0x2210 { State.reset with pc := 0xFFE }) (fun t => (t.stack[0], t.sp, t.pc)) = some (0x000, 1, 0x210) := by decide
/-- Vector B16. -/
theorem test_call_overflow : out (run 0x2210 { State.reset with sp := 16 }) (fun t => (t.fault, t.execState, t.sp, t.pc, t.opcode)) = some (some .stackOverflow, .stopped, 16, 0x202, 0x2210) := by decide
/-- Vector B15. -/
theorem test_call_sixteenth : out (run 0x2210 { State.reset with sp := 15 }) (fun t => (t.stack[15], t.sp, t.pc, t.fault)) = some (0x202, 16, 0x210, none) := by decide
/-- Vector B17. -/
theorem test_ret : out (run 0x00EE { State.reset with sp := 1, pc := 0x212, stack := State.reset.stack.set 0 0x206 }) (fun t => (t.sp, t.pc, t.stack[0])) = some (0, 0x206, 0x206) := by decide
/-- Vector B18. -/
theorem test_ret_underflow : out (run 0x00EE { State.reset with pc := 0x212 }) (fun t => (t.fault, t.execState, t.sp, t.pc)) = some (some .stackUnderflow, .stopped, 0, 0x214) := by decide
/-- Vector X1: the word at 0xFFF and 0x000. -/
theorem test_ldImm_split : out (run 0x6042 { State.reset with pc := 0xFFF }) (fun t => (t.getV 0, t.pc, t.opcode)) = some (0x42, 0x001, 0x6042) := by decide
/-- Vector A26. -/
theorem test_ldImm_vf : out (run 0x6FAB State.reset) (fun t => t.getV 0xF) = some 0xAB := by decide
/-- Vector A25. -/
theorem test_addImm_no_flag : out (run 0x70FF (regs [(0, 2), (0xF, 0x77)])) (fun t => (t.getV 0, t.getV 0xF, t.pc)) = some (0x01, 0x77, 0x202) := by decide
/-- Vector A24. -/
theorem test_ldReg : out (run 0x8010 (quirked false false true false (regs [(1, 0x3C), (0xF, 0x55)]))) (fun t => (t.getV 0, t.getV 0xF)) = some (0x3C, 0x55) := by decide
/-- Vector A19. -/
theorem test_or_off : out (run 0x8011 (regs [(0, 0x0F), (1, 0xF0), (0xF, 0x55)])) (fun t => (t.getV 0, t.getV 0xF)) = some (0xFF, 0x55) := by decide
/-- Vector A20. -/
theorem test_or_quirk : out (run 0x8011 (quirked false false true false (regs [(0, 0x0F), (1, 0xF0), (0xF, 0x55)]))) (fun t => (t.getV 0, t.getV 0xF)) = some (0xFF, 0x00) := by decide
/-- Vector A21. -/
theorem test_and_quirk : out (run 0x8012 (quirked false false true false (regs [(0, 0x3C), (1, 0x0F), (0xF, 0x55)]))) (fun t => (t.getV 0, t.getV 0xF)) = some (0x0C, 0x00) := by decide
/-- Vector A22. -/
theorem test_xor_self : out (run 0x8003 (regs [(0, 0x3C)])) (fun t => t.getV 0) = some 0x00 := by decide
/-- Vector A23. -/
theorem test_xor_quirk_vf : out (run 0x8F13 (quirked false false true false (regs [(0xF, 0x0F), (1, 0xF0)]))) (fun t => t.getV 0xF) = some 0x00 := by decide
/-- Vector A3. -/
theorem test_addReg_vf_dest : out (run 0x8F14 (regs [(0xF, 0xFF), (1, 1)])) (fun t => t.getV 0xF) = some 1 := by decide
/-- Vector A4. -/
theorem test_addReg_vf_source : out (run 0x80F4 (regs [(0, 1), (0xF, 1)])) (fun t => (t.getV 0, t.getV 0xF)) = some (2, 0) := by decide
/-- Vector A7. -/
theorem test_sub_borrow : out (run 0x8015 (regs [(0, 0), (1, 1)])) (fun t => (t.getV 0, t.getV 0xF)) = some (0xFF, 0) := by decide
/-- Vectors A9 and E11. -/
theorem test_sub_vf_source : out (run 0x80F5 (regs [(0, 5), (0xF, 3)])) (fun t => (t.getV 0, t.getV 0xF)) = some (2, 1) := by decide
/-- Vector A11. -/
theorem test_subn_borrow : out (run 0x8017 (regs [(0, 5), (1, 3)])) (fun t => (t.getV 0, t.getV 0xF)) = some (0xFE, 0) := by decide
/-- Vector A12. -/
theorem test_subn_vf_dest : out (run 0x8F17 (regs [(0xF, 3), (1, 5)])) (fun t => t.getV 0xF) = some 1 := by decide
/-- Vector A13. -/
theorem test_shr_off : out (run 0x8016 (regs [(0, 0), (1, 0x81)])) (fun t => (t.getV 0, t.getV 0xF)) = some (0x40, 1) := by decide
/-- Vector A14. -/
theorem test_shr_quirk : out (run 0x8016 (quirked true false false false (regs [(0, 0), (1, 0x81)]))) (fun t => (t.getV 0, t.getV 0xF)) = some (0x00, 0) := by decide
/-- Vector A16. -/
theorem test_shl_off : out (run 0x801E (regs [(0, 0), (1, 0x81)])) (fun t => (t.getV 0, t.getV 0xF)) = some (0x02, 1) := by decide
/-- Vector A17. -/
theorem test_shl_quirk : out (run 0x801E (quirked true false false false (regs [(0, 0x40), (1, 0x81)]))) (fun t => (t.getV 0, t.getV 0xF)) = some (0x80, 0) := by decide
/-- Vector A27. -/
theorem test_rnd_supplied : out (run 0xC00F { State.reset with rnd := [0xAB, 0x11] }) (fun t => (t.getV 0, t.rnd, t.draws)) = some (0x0B, [0x11], 0) := by decide
/-- Vector M1. -/
theorem test_ldI : out (run 0xAFFF State.reset) (fun t => t.i) = some 0xFFF := by decide
/-- Vector M2. -/
theorem test_addI_wraps : out (run 0xF01E { regs [(0, 0x01), (0xF, 0x33)] with i := 0xFFF }) (fun t => (t.i, t.getV 0xF)) = some (0x000, 0x33) := by decide
/-- Vector M4. -/
theorem test_glyph : out (run 0xF029 (regs [(0, 0x0A)])) (fun t => t.i) = some 0x082 := by decide
/-- Vector M5. -/
theorem test_glyph_full : out (run 0xF029 (regs [(0, 0xFF)])) (fun t => t.i) = some 0x54B := by decide
/-- Vector E2. -/
theorem test_bcd : out (run 0xF033 { regs [(0, 0xFF)] with i := 0x300 }) (fun t => (t.readBytes 0x300 3, t.i, t.pc)) = some ([2, 5, 5], 0x300, 0x202) := by decide
/-- Vector M9. -/
theorem test_bcd_wraps : out (run 0xF033 { regs [(0, 123)] with i := 0xFFE }) (fun t => (t.readBytes 0xFFE 3, t.i, t.readByte 0x000)) = some ([1, 2, 3], 0xFFE, 3) := by decide
/-- Vector M10. -/
theorem test_store_wraps : out (run 0xF255 { regs [(0, 1), (1, 2), (2, 3)] with i := 0xFFF }) (fun t => (t.readByte 0xFFF, t.readByte 0x000, t.readByte 0x001, t.i)) = some (1, 2, 3, 0xFFF) := by decide
/-- Vector M11. -/
theorem test_store_quirk : out (run 0xF255 (quirked false false false true { regs [(0, 1), (1, 2), (2, 3)] with i := 0xFFF })) (fun t => (t.readByte 0x001, t.i)) = some (3, 0x002) := by decide
/-- Vector M12, first and last register. -/
theorem test_load_all : out (run 0xFF65 ((State.reset.writeBytes 0x300 [0x10, 0x11, 0x12, 0x13, 0x14, 0x15, 0x16, 0x17, 0x18, 0x19, 0x1A, 0x1B, 0x1C, 0x1D, 0x1E, 0x1F]).setI 0x300)) (fun t => (t.getV 0, t.getV 0xF, t.i)) = some (0x10, 0x1F, 0x300) := by decide
/-- Vector M13. -/
theorem test_load_quirk : out (run 0xFF65 (quirked false false false true { State.reset with i := 0x300 })) (fun t => t.i) = some 0x310 := by decide
/-- Vector D7, one row and one event. -/
theorem test_cls : out (run 0x00E0 { State.reset with fb := Vector.replicate 32 (Vector.replicate 64 true) }) (fun t => ((List.range 64).any fun c => t.fb.cell 31 c, t.outputs, t.pc)) = some (false, [.frameDirty], 0x202) := by decide
/-- Vector D1. -/
theorem test_drw_wraps : out (run 0xD011 { (regs [(0, 62), (1, 31)]).writeByte 0x300 0xFF with i := 0x300 }) (fun t => ((List.range 64).filter fun c => t.fb.cell 31 c, t.getV 0xF, t.outputs)) = some ([0, 1, 2, 3, 4, 5, 62, 63], 0, [.frameDirty]) := by decide
/-- Vector D3. -/
theorem test_drw_collides : out (run 0xD011 { State.reset.writeByte 0x300 0xC0 with i := 0x300, fb := Frame.clear.toggle 0 0 }) (fun t => (t.fb.cell 0 0, t.fb.cell 0 1, t.getV 0xF)) = some (false, true, 1) := by decide
/-- A framebuffer with FB[0][0] alone set, or clear, a one-row sprite 0x80 at I, and V0 = V1 = 0. -/
def dot (f : Frame) : State := { State.reset.writeByte 0x300 0x80 with i := 0x300, fb := f }
/-- Vector E6, its second draw: the framebuffer after glyph 0 was drawn on a clear one. -/
theorem test_drw_twice_glyph :
    (let s := { State.reset with i := 0x050 }
     out (exec (.drw 0 1 5) { s with fb := (s.draw 0 1 5).frame }) (fun t => (t.fb, t.getV 0xF))) = some (Frame.clear, 1) := by decide
/-- R191 off a clear framebuffer, by hand from its pseudocode: FB[0][0] = 1 is cleared by the first draw (VF = 1) and set again by the
second, which takes no cell from 1 to 0 (VF = 0), though the sprite has a set bit. R193's clause on VF says 1 (log entry 16). -/
theorem test_drw_twice_off_clear :
    out (exec (.drw 0 1 1) (dot (Frame.clear.toggle 0 0))) (fun t => (t.fb, t.getV 0xF)) = some (Frame.clear, 1) ∧
      out (exec (.drw 0 1 1) (dot Frame.clear)) (fun t => (t.fb, t.getV 0xF)) = some (Frame.clear.toggle 0 0, 0) := by decide
/-- Vector K1. -/
theorem test_skp_mod16 : out (run 0xE09E { regs [(0, 0x13)] with key := State.reset.key.set 3 true }) (fun t => t.pc) = some 0x204 := by decide
/-- Vector K2. -/
theorem test_skp_up : out (run 0xE09E (regs [(0, 0x13)])) (fun t => t.pc) = some 0x202 := by decide
/-- Vector K3. -/
theorem test_sknp : out (run 0xE0A1 (regs [(0, 3)])) (fun t => t.pc) = some 0x204 := by decide
/-- Vector K6. -/
theorem test_key_wait_rewinds : out (run 0xF00A { State.reset with pc := 0xFFE }) (fun t => (t.pc, t.opcode, t.getV 0)) = some (0xFFE, 0xF00A, 0) := by decide
/-- Vector K5. -/
theorem test_key_wait_least : out (run 0xF30A { State.reset with key := ((State.reset.key.set 12 true).set 9 true).set 4 true }) (fun t => (t.getV 3, t.pc)) = some (4, 0x202) := by decide
/-- Vector K7. -/
theorem test_ldVxDt : out (run 0xF307 { State.reset with dt := 0x20 }) (fun t => t.getV 3) = some 0x20 := by decide
/-- Vector K8. -/
theorem test_ldDtVx : out (run 0xF315 (regs [(3, 0x3C)])) (fun t => t.dt) = some 0x3C := by decide
/-- Vector K9. -/
theorem test_ldStVx_starts : out (run 0xF118 (regs [(1, 10)])) (fun t => (t.st, t.outputs)) = some (10, [.beepStart 10]) := by decide
/-- Vector K10. -/
theorem test_ldStVx_running : out (run 0xF118 { regs [(1, 10)] with st := 5 }) (fun t => (t.st, t.outputs)) = some (10, []) := by decide
/-- Vector X3. -/
theorem test_invalid : out (run 0x0000 State.reset) (fun t => (t.fault, t.execState, t.pc, t.opcode)) = some (some .invalidOpcode, .stopped, 0x202, 0x0000) := by decide
/-- Vector X12. -/
theorem test_stepping_pauses : out (run 0x6005 { State.reset with execState := .stepping }) (fun t => (t.getV 0, t.pc, t.execState)) = some (5, 0x202, .paused) := by decide

/-! ### Events -/

/-- Vectors K12, K13 and K14. -/
theorem test_tick :
    out (step { State.reset with execState := .running, dt := 2, st := 1, inputs := [.tick] }) (fun t => (t.dt, t.st, t.outputs)) =
      some (1, 0, [.beepEnd]) := by decide
theorem test_tick_paused :
    out (step { State.reset with execState := .paused, dt := 5, inputs := [.tick] }) (fun t => (t.dt, t.inputs)) =
      some (5, []) := by decide
/-- Vector X10: Start is ignored while FAULT is set. -/
theorem test_start_faulted :
    out (step { State.reset with fault := some .invalidOpcode, inputs := [.start] }) (fun t => (t.execState, t.fault)) =
      some (.stopped, some .invalidOpcode) := by decide
/-- Vector X11: Stop resets. -/
theorem test_stop :
    out (step { regs [(0, 7)] with fault := some .invalidOpcode, pc := 0x400, mem := [(0x200, 0x12)], inputs := [.stop] })
      (fun t => (t.fault, t.pc, t.readByte 0x200, t.getV 0)) = some (none, 0x200, 0x00, 0x00) := by decide
/-- R254 with two bytes, then Start (R282). -/
theorem test_loadRom :
    out (step { State.reset with inputs := [.loadRom [0x60, 0x05], .start] })
      (fun t => (t.readBytes 0x200 3, t.outputs, t.execState, t.inputs)) =
      some ([0x60, 0x05, 0x00], [.loadOk], .stopped, [.start]) := by decide
theorem test_loadRom_refused :
    step { State.reset with execState := .running, inputs := [.loadRom []] } = .refused .loadRomNotStopped := rfl
theorem test_setKey :
    out (step { State.reset with inputs := [.setKey 7 true] }) (fun t => (t.keyDown 7, t.keyDown 6)) = some (true, false) := by decide
/-- R281: nothing executes after reset until Start. -/
theorem test_reset_idle : step State.reset = .next State.reset := rfl

/-! ### Codes of the host interface (R34, R36, R38) and the font (R44) -/

theorem test_codes :
    [ExecState.stopped, .running, .paused, .stepping].map execCode = [0, 1, 2, 3] ∧
    [none, some FatalError.invalidOpcode, some .stackOverflow, some .stackUnderflow].map faultCode = [0, 1, 2, 3] ∧
    quirkWord ⟨true, false, false, false⟩ = 1 ∧ quirkWord ⟨false, true, false, false⟩ = 2 ∧
    quirkWord ⟨false, false, true, false⟩ = 4 ∧ quirkWord ⟨false, false, false, true⟩ = 8 := by decide
/-- The first byte of glyph 0, the last of glyph F, and the bytes beside the font. -/
theorem test_font :
    (State.reset.readByte 0x050, State.reset.readByte 0x09F, State.reset.readByte 0x04F, State.reset.readByte 0x0A0) =
      (0xF0#8, 0x80#8, 0x00#8, 0x00#8) := by decide

/-! ### Witnesses: the hypotheses of each statement can be met -/

theorem witness_EncodeOfDecodeIsIdentity : ∃ w i, decodeWord w = .ok i := ⟨0x8AB4#16, .addReg 0xA 0xB, by decide⟩
theorem witness_OpcodeRowsAreDisjoint :
    ∃ w r q, r ∈ opcodeRows ∧ q ∈ opcodeRows ∧ r.admits w = true ∧ q.admits w = true :=
  ⟨0x00E0#16, ⟨0xFFFF, 0x00E0⟩, ⟨0xFFFF, 0x00E0⟩, by decide⟩

/-- A running state with 6005 at PC. -/
def ready : State := State.reset.withFetchWord 16 0x6005

theorem witness_StepRunsDecodedInstruction :
    ready.enabled = true ∧ ready.nextEvent = .instr ∧
      decode [ready.readByte ready.pc, ready.readByte (ready.pc + 1#16)] = .ok (.ldImm 0 0x05, []) := by decide
theorem witness_FetchLatchesBigEndianWord : ∃ s : State, s.pc = 0xFFF#16 := ⟨{ State.reset with pc := 0xFFF }, rfl⟩
theorem witness_Completion_running :
    ready.enabled = true ∧ ready.nextEvent = .instr ∧ decodeWord ready.fetchWord = .ok (.ldImm 0 0x05) ∧
      ready.execState = .running := by decide
theorem witness_Completion_stepping :
    ∃ s : State, s.enabled = true ∧ s.nextEvent = .instr ∧ decodeWord s.fetchWord = .ok (.ldImm 0 0x05) ∧
      s.execState = .stepping := ⟨{ ready with execState := .stepping }, by decide⟩
theorem witness_Completion_fault :
    ∃ s : State, s.enabled = true ∧ s.nextEvent = .instr ∧ decodeWord s.fetchWord = .ok .ret ∧
      out (step s) (fun t => t.fault) = some (some .stackUnderflow) := ⟨State.reset.withFetchWord 16 0x00EE, by decide⟩
theorem witness_InvalidWordTakesInvalidOpcode :
    ∃ s : State, s.enabled = true ∧ s.nextEvent = .instr ∧ decodeWord s.fetchWord = .error .invalid0nnn :=
  ⟨State.reset.withFetchWord 16 0x0000, by decide⟩
theorem witness_DisabledStepExecutesNothing :
    State.reset.nextEvent = .instr ∧ State.reset.execState = .stopped ∧
      (∃ s : State, s.nextEvent = .instr ∧ s.execState = .paused) ∧ (∃ s : State, s.nextEvent = .instr ∧ s.fault ≠ none) :=
  ⟨rfl, rfl, ⟨{ State.reset with execState := .paused }, rfl, rfl⟩, ⟨State.reset.raise .stackOverflow, rfl, by decide⟩⟩
theorem witness_StoredByteIsFetchedNext :
    ∃ (s : State) (x : RegIx) (k : Nat), Memory.wf s.cfg.font s.mem = true ∧ k < x.toNat ∧
      wrap12 s.pc = wrap12 (s.i + BitVec.ofNat 16 k) := ⟨{ State.reset with i := 0x200 }, 1, 0, by decide⟩
theorem witness_StoredByteIsFetchedNext_last :
    ∃ (s : State) (x : RegIx) (k : Nat), Memory.wf s.cfg.font s.mem = true ∧ k = x.toNat ∧
      wrap12 s.pc = wrap12 (s.i + BitVec.ofNat 16 k) := ⟨{ State.reset with i := 0x1F1 }, 15, 15, by decide⟩
theorem witness_Call : (∃ s : State, s.sp.val = 0) ∧ (∃ s : State, s.sp.val = 15) ∧ ∃ s : State, s.sp.val = 16 :=
  ⟨⟨State.reset, rfl⟩, ⟨{ State.reset with sp := 15 }, rfl⟩, ⟨{ State.reset with sp := 16 }, rfl⟩⟩
theorem witness_Ret : (∃ s : State, s.sp.val = 1) ∧ (∃ s : State, s.sp.val = 16) ∧ ∃ s : State, s.sp.val = 0 :=
  ⟨⟨{ State.reset with sp := 1 }, rfl⟩, ⟨{ State.reset with sp := 16 }, rfl⟩, ⟨State.reset, rfl⟩⟩
theorem witness_ReturnGoesBackToCaller :
    ∃ (s t u : State), s.sp.val < 16 ∧ exec (.call 0x210) s = .next t ∧ u.stack = t.stack ∧ u.sp = t.sp :=
  ⟨State.reset, _, _, by decide, rfl, rfl, rfl⟩
theorem witness_LogicOperations :
    (∃ s : State, s.cfg.quirks.logic = true) ∧ (∃ s : State, s.cfg.quirks.logic = false) ∧ ∃ x : RegIx, x ≠ vfIx :=
  ⟨⟨quirked false false true false State.reset, rfl⟩, ⟨State.reset, rfl⟩, ⟨0, by decide⟩⟩
theorem witness_RandomByteIsMasked :
    (∃ (s : State) (r : Byte) (rest : List Byte), s.rnd = r :: rest) ∧ ∃ s : State, s.rnd = [] :=
  ⟨⟨{ State.reset with rnd := [0xAB] }, _, _, rfl⟩, ⟨State.reset, rfl⟩⟩
/-- For BcdStoresDigits and StoreRegistersToMemory. -/
theorem witness_canonical_memory : Memory.wf State.reset.cfg.font State.reset.mem = true := rfl
theorem witness_register_ranges :
    (∃ x r : RegIx, r.toNat ≤ x.toNat) ∧ (∃ x r : RegIx, x.toNat < r.toNat) := ⟨⟨15, 15, by decide⟩, ⟨14, 15, by decide⟩⟩
/-- The state after Fx55 with x = F. -/
def stored (s : State) : State := (s.writeBytes s.i (s.regsUpTo 0xF)).postIndex s.i 0xF
/-- The hypotheses of StoreThenLoadRoundTrip. -/
def RoundTripHyps (s t u : State) : Prop :=
  Memory.wf s.cfg.font s.mem = true ∧ exec (.ldMemVx 0xF) s = .next t ∧ u.mem = t.mem ∧ u.cfg = t.cfg ∧ u.i = s.i
theorem roundTripHyps_stored (s : State) (h : Memory.wf s.cfg.font s.mem = true) :
    RoundTripHyps s (stored s) { stored s with i := s.i } := ⟨h, rfl, rfl, rfl, rfl⟩
theorem witness_StoreThenLoadRoundTrip :
    (∃ s t u : State, s.cfg.quirks.loadstore = false ∧ RoundTripHyps s t u) ∧
      ∃ s t u : State, s.cfg.quirks.loadstore = true ∧ RoundTripHyps s t u :=
  ⟨⟨State.reset, _, _, rfl, roundTripHyps_stored _ rfl⟩,
    ⟨quirked false false false true State.reset, _, _, rfl, roundTripHyps_stored _ rfl⟩⟩
/-- A draw of glyph 0 at (0, 0), for DrawXorsSprite (cells that go from 1 to 0, and none that do) and DrawingTwiceRestores. -/
def glyph0 : State := { State.reset with i := 0x050 }
theorem witness_DrawXorsSprite_hit :
    ∃ s : State, out (exec (.drw 0 1 5) s) (fun t => (s.fb.cell 0 0, t.fb.cell 0 0, t.getV vfIx)) = some (true, false, 1) :=
  ⟨{ glyph0 with fb := Frame.clear.toggle 0 0 }, by decide⟩
theorem witness_DrawXorsSprite_miss : out (exec (.drw 0 1 5) glyph0) (fun t => (t.fb.cell 0 0, t.getV vfIx)) = some (true, 0) := by
  decide
theorem witness_DrawingTwiceRestores :
    ∃ (s t u : State), exec (.drw 0 1 5) s = .next t ∧ u.fb = t.fb ∧ u.getV 0 = s.getV 0 ∧ u.getV 1 = s.getV 1 ∧ u.i = s.i ∧
      (∀ a, u.readByte a = s.readByte a) ∧ s.fb = Frame.clear :=
  ⟨glyph0, _, { glyph0 with fb := (glyph0.draw 0 1 5).frame }, rfl, rfl, rfl, rfl, rfl, fun _ => rfl, rfl⟩
theorem witness_KeyWait :
    (∃ (s : State) (k : Fin 16), s.key[k] = true ∧ ∀ j : Fin 16, j < k → s.key[j] = false) ∧
      ∃ s : State, ∀ k : Fin 16, s.key[k] = false :=
  ⟨⟨{ State.reset with key := State.reset.key.set 15 true }, 15, by decide⟩, ⟨State.reset, by decide⟩⟩
theorem witness_SoundTimerWrite :
    (∃ (s : State) (x : RegIx), s.st = 0x00#8 ∧ s.getV x ≠ 0x00#8) ∧ (∃ (s : State) (x : RegIx), s.st ≠ 0x00#8 ∧ s.getV x ≠ 0x00#8) ∧
      ∃ (s : State) (x : RegIx), s.getV x = 0x00#8 :=
  ⟨⟨regs [(1, 10)], 1, by decide⟩, ⟨{ regs [(1, 10)] with st := 5 }, 1, by decide⟩, ⟨State.reset, 0, by decide⟩⟩
theorem witness_TickDecaysTimers :
    (∃ s : State, s.inputs = [.tick] ∧ s.execState = .running ∧ s.st = 0x01#8) ∧
      (∃ s : State, s.inputs = [.tick] ∧ s.execState ≠ .running) :=
  ⟨⟨{ ready with st := 1, inputs := [.tick] }, rfl, rfl, rfl⟩, ⟨{ State.reset with inputs := [.tick] }, rfl, by decide⟩⟩
theorem witness_TicksCountDownToZero : ready.execState = .running := rfl
theorem witness_ControllerTable :
    ∀ c ∈ [Event.start, .pause, .resume, .step], ∀ e : ExecState, ∃ s : State, s.inputs = [c] ∧ s.execState = e ∧ s.fault = none :=
  fun c _ e => ⟨{ State.reset with inputs := [c], execState := e }, rfl, rfl, rfl⟩
theorem witness_StopResets : ∃ s : State, s.inputs = [.stop] ∧ s.fault ≠ none :=
  ⟨{ State.reset.raise .stackOverflow with inputs := [.stop] }, rfl, by decide⟩
theorem witness_LoadRomLoads :
    (∃ s : State, s.inputs = [.loadRom []] ∧ s.execState ≠ .stopped) ∧
      (∃ (s : State) (bytes : List Byte), s.inputs = [.loadRom bytes] ∧ s.execState = .stopped ∧ bytes.length = 3585) ∧
      ∃ (s : State) (bytes : List Byte), s.inputs = [.loadRom bytes] ∧ s.execState = .stopped ∧ bytes.length = 3584 :=
  ⟨⟨{ ready with inputs := [.loadRom []] }, rfl, by decide⟩,
    ⟨{ State.reset with inputs := [.loadRom (List.replicate 3585 0)] }, _, rfl, rfl, List.length_replicate⟩,
    ⟨{ State.reset with inputs := [.loadRom (List.replicate 3584 0)] }, _, rfl, rfl, List.length_replicate⟩⟩
theorem witness_SetKeySetsOneKey :
    (∃ s : State, s.inputs = [.setKey 15 true]) ∧ ∃ s : State, s.inputs = [.read] :=
  ⟨⟨{ State.reset with inputs := [.setKey 15 true] }, rfl⟩, ⟨{ State.reset with inputs := [.read] }, rfl⟩⟩
theorem witness_ThrottleHasNoEffect : ∀ d, ready.nextEvent ≠ .setThrottle d := fun _ h => nomatch h
theorem witness_StepKeepsInvariant : ready.Inv ∧ out (step ready) (fun t => t.getV 0) = some 5 := by decide
theorem witness_QuirksAndFontNeverChange : out (step ready) (fun t => t.getV 0) = some 5 := by decide
theorem witness_FaultStaysUntilReset :
    ∃ s t : State, s.fault ≠ none ∧ s.execState = .stopped ∧ step s = .next t :=
  ⟨State.reset.raise .invalidOpcode, State.reset.raise .invalidOpcode, by decide, rfl, rfl⟩
theorem witness_OnlyCallAndRetRaise :
    (∃ s t : State, exec (.call 0) s = .next t ∧ t.fault ≠ s.fault) ∧ ∃ s t : State, exec .ret s = .next t ∧ t.execState ≠ s.execState :=
  ⟨⟨{ ready with sp := 16 }, _, rfl, by decide⟩, ⟨ready, _, rfl, by decide⟩⟩
/-- For OutputEventsOfInstructions and NoInstructionReachesHostState. -/
theorem witness_exec_next : ∃ t : State, exec (.ldStVx 1) (regs [(1, 10)]) = .next t ∧ t.outputs = [.beepStart 10] := ⟨_, rfl, by decide⟩
theorem witness_WritersOfMemoryAndDevices :
    (∃ s t : State, exec (.ldMemVx 0) s = .next t ∧ t.mem ≠ s.mem) ∧ (∃ s t : State, exec .cls s = .next t ∧ t.fb.cell 0 0 ≠ s.fb.cell 0 0) ∧
      (∃ s t : State, exec (.call 0) s = .next t ∧ t.stack[0] ≠ s.stack[0] ∧ t.sp ≠ s.sp) ∧
      (∃ s t : State, exec (.ldDtVx 0) s = .next t ∧ t.dt ≠ s.dt) ∧ ∃ s t : State, exec (.ldStVx 0) s = .next t ∧ t.st ≠ s.st :=
  ⟨⟨{ regs [(0, 7)] with i := 0x300 }, _, rfl, by decide⟩, ⟨{ State.reset with fb := Frame.clear.toggle 0 0 }, _, rfl, by decide⟩,
    ⟨ready, _, rfl, by decide⟩, ⟨regs [(0, 7)], _, rfl, by decide⟩, ⟨{ regs [(0, 7)] with st := 1 }, _, rfl, by decide⟩⟩
theorem witness_WritersOfIndex :
    (∃ s t : State, exec (.ldI 0x300) s = .next t ∧ t.i ≠ s.i) ∧
      ∃ s t : State, exec (.ldVxMem 0) s = .next t ∧ t.i ≠ s.i :=
  ⟨⟨State.reset, _, rfl, by decide⟩, ⟨quirked false false false true State.reset, _, rfl, by decide⟩⟩
theorem witness_WritersOfVf : ∃ s t : State, exec (.addReg 0 1) s = .next t ∧ t.getV vfIx ≠ s.getV vfIx :=
  ⟨regs [(0, 0xFF), (1, 0x01)], _, rfl, by decide⟩
theorem witness_WritersOfPc :
    (∃ s t : State, exec (.jp 0x300) s = .next t ∧ t.pc ≠ s.pc) ∧ ∃ s t : State, exec (.ldVxK 0) s = .next t ∧ t.pc ≠ s.pc :=
  ⟨⟨State.reset, _, rfl, by decide⟩, ⟨State.reset, _, rfl, by decide⟩⟩

/-- An instruction step where one is enabled, and a tick elsewhere, is always enabled. -/
def eager (_ : Nat) (t : State) : Event × Byte := (if t.enabled then .instr else .tick, 0x00)
theorem witness_EveryInterleavingIsABehaviour : ∀ n t, (eager n t).1.EnabledIn t := by
  intro _ t
  by_cases h : t.enabled = true <;> simp [eager, h, Event.EnabledIn]

/-- A running self-jump with DT = ST = `d`, at a boundary after its first step, for FairBehaviourRunsTimersOut. -/
def looping (d : Byte) (o : List Output) : State :=
  { State.reset.writeBytes 0x200 [0x12, 0x00] with
    opcode := 0x1200, execState := .running, dt := d, st := d, outputs := o, rnd := [0x00] }
/-- A self-jump whose environment gives an instruction step and a tick in turn, from DT = ST = 1. -/
def looped : Behaviour where
  state n := if n ≤ 1 then looping 1 [] else looping 0 [.beepEnd]
  event n := if n % 2 = 0 then .instr else .tick
  draw _ := 0x00
theorem next_of_out {r : Result} {t : State} (h : out r id = some t) : r = .next t := by
  cases r <;> simp_all [out]
theorem looped_admitted : looped.Admitted := by
  have hi : ∀ d o, (looping d o).enabled = true := fun _ _ => rfl
  have h0 : step ((looping 1 []).offer .instr 0x00) = .next (looping 1 []) := next_of_out (by decide)
  have h1 : step ((looping 0 [.beepEnd]).offer .instr 0x00) = .next (looping 0 [.beepEnd]) := next_of_out (by decide)
  have h2 : step ((looping 1 []).offer .tick 0x00) = .next (looping 0 [.beepEnd]) := rfl
  have h3 : step ((looping 0 [.beepEnd]).offer .tick 0x00) = .next (looping 0 [.beepEnd]) := rfl
  intro n
  rcases Nat.mod_two_eq_zero_or_one n with h | h
  · have he : looped.event n = .instr := by simp [looped, h]
    have hs : looped.state (n + 1) = looped.state n := by
      simp only [looped]
      congr 1
      simp only [eq_iff_iff]
      omega
    rw [he, hs]
    by_cases hn : n ≤ 1
    · simp only [looped, hn, if_true]; exact ⟨hi _ _, h0⟩
    · simp only [looped, hn, if_false]; exact ⟨hi _ _, h1⟩
  · have he : looped.event n = .tick := by simp [looped, h]
    have hs : looped.state (n + 1) = looping 0 [.beepEnd] := by
      simp only [looped]
      rw [if_neg (by omega)]
    rw [he, hs]
    by_cases hn : n ≤ 1
    · simp only [looped, hn, if_true]; exact ⟨trivial, h2⟩
    · simp only [looped, hn, if_false]; exact ⟨trivial, h3⟩
theorem looped_fair : looped.Fair := fun _ _ =>
  ⟨fun k => ⟨2 * k, by omega, by simp [looped]⟩, fun k => ⟨2 * k + 1, by omega, by simp [looped]⟩⟩
/-- Both timers are above 0 at boundary 0, and the word fetched at each boundary is the self-jump. -/
theorem witness_FairBehaviourRunsTimersOut :
    looped.Admitted ∧ looped.Fair ∧ looped.StaysRunning 0 ∧ (looped.state 0).dt = 1 ∧ (looped.state 0).st = 1 ∧
      ∀ n, decodeWord (looped.state n).fetchWord = .ok (.jp 0x200) := by
  refine ⟨looped_admitted, looped_fair, ?_, rfl, rfl, ?_⟩
  · intro n _; simp only [looped]; split <;> rfl
  · intro n; simp only [looped]; split <;> decide

end Sys2Proof.Tests
end

/-! SUPPORT. The next states of the four instructions whose meaning branches. Every other arm of exec is one state. -/

namespace Sys2Proof.Machine

variable {s t : State}

theorem exec_ret_next (h : exec .ret s = .next t) :
    (∃ hsp : 0 < s.sp.val, t = s.pop.setPc (s.top hsp)) ∨ (s.sp.val = 0 ∧ t = s.raise .stackUnderflow) := by
  simp only [exec, execRet] at h
  split at h <;> cases h
  case isTrue hsp => exact .inl ⟨hsp, rfl⟩
  case isFalse hsp => exact .inr ⟨Nat.eq_zero_of_not_pos hsp, rfl⟩

theorem exec_call_next {nnn : Addr} (h : exec (.call nnn) s = .next t) :
    (∃ hsp : s.sp.val < 16, t = (s.push s.pc hsp).setPc (addrWord nnn)) ∨ (s.sp.val = 16 ∧ t = s.raise .stackOverflow) := by
  simp only [exec, execCall] at h
  split at h <;> cases h
  case isTrue hsp => exact .inl ⟨hsp, rfl⟩
  case isFalse hsp => exact .inr ⟨by omega, rfl⟩

theorem exec_ldVxK_next {x : RegIx} (h : exec (.ldVxK x) s = .next t) :
    (∃ k, s.firstKey = some k ∧ t = s.setV x (BitVec.ofNat 8 k.val)) ∨ (s.firstKey = none ∧ t = s.setPc (s.pc - 2#16)) := by
  simp only [exec, execLdVxK] at h
  split at h <;> rename_i hk <;> cases h
  · exact .inl ⟨_, hk, rfl⟩
  · exact .inr ⟨hk, rfl⟩

theorem exec_ldStVx_next {x : RegIx} (h : exec (.ldStVx x) s = .next t) :
    ((s.st = 0x00#8 ∧ s.getV x ≠ 0x00#8) ∧ t = ({ s with st := s.getV x }).emit (.beepStart (s.getV x))) ∨
      (¬(s.st = 0x00#8 ∧ s.getV x ≠ 0x00#8) ∧ t = { s with st := s.getV x }) := by
  simp only [exec, execLdStVx] at h
  split at h <;> cases h
  case isTrue hb => exact .inl ⟨hb, rfl⟩
  case isFalse hb => exact .inr ⟨hb, rfl⟩

end Sys2Proof.Machine

/-! SUPPORT. Frames: what each shared operation, and so each instruction, leaves as it was. -/

namespace Sys2Proof.Machine

/-! ### What a run of operations leaves unchanged -/

theorem Part.Same.refl (p : Part) (s : State) : p.Same s s := by
  cases p <;> simp [Part.Same]

theorem Part.Same.trans {p : Part} {s t u : State} (hst : p.Same s t) (htu : p.Same t u) : p.Same s u := by
  cases p
  case mem => exact fun a => (htu a).trans (hst a)
  case v => exact fun r => (htu r).trans (hst r)
  case env =>
    obtain ⟨hr, hd, hi⟩ := hst
    obtain ⟨hr', hd', hi'⟩ := htu
    exact ⟨hr'.trans hr, hd'.trans hd, hi'.trans hi⟩
  all_goals exact Eq.trans htu hst

/-- `t` comes from `s` by writing no part but the listed ones. Beyond `UnchangedBut`, memory that is not listed is the same data,
and the events to come are never taken (only `step` takes one). -/
structure WritesOnly (ps : List Part) (s t : State) : Prop where
  unchanged : UnchangedBut ps s t
  mem_eq : .mem ∉ ps → t.mem = s.mem
  inputs_eq : t.inputs = s.inputs

theorem WritesOnly.trans {ps qs : List Part} {s t u : State} (hst : WritesOnly ps s t) (htu : WritesOnly qs t u) :
    WritesOnly (ps ++ qs) s u where
  unchanged p hp := by
    rw [List.mem_append, not_or] at hp
    exact (hst.unchanged p hp.1).trans (htu.unchanged p hp.2)
  mem_eq hm := by
    rw [List.mem_append, not_or] at hm
    exact (htu.mem_eq hm.2).trans (hst.mem_eq hm.1)
  inputs_eq := htu.inputs_eq.trans hst.inputs_eq

/-- A part that differs is one of those written. -/
theorem WritesOnly.mem_of_not_same {ps : List Part} {s t : State} {p : Part} (h : WritesOnly ps s t) (hp : ¬ p.Same s t) :
    p ∈ ps :=
  Classical.byContradiction fun hn => hp (h.unchanged p hn)

/-! ### The parts each operation writes -/

section
variable (s : State) (x : RegIx) (a : Word) (b f : Byte)

/-- I is written after Fx55 and Fx65 under LoadStoreQuirk (R42). -/
def postIndexParts (q : Quirks) : List Part := if q.loadstore then [.i] else []

theorem writesOnly_nil : WritesOnly [] s s := ⟨fun p _ => .refl p s, fun _ => rfl, rfl⟩

theorem writesOnly_setV : WritesOnly [.v] s (s.setV x b) :=
  ⟨fun p hp => by cases p <;> simp_all [Part.Same], fun _ => rfl, rfl⟩

theorem writesOnly_setVThenFlag : WritesOnly [.v] s (s.setVThenFlag x b f) :=
  ⟨fun p hp => by cases p <;> simp_all [Part.Same], fun _ => rfl, rfl⟩

theorem writesOnly_setV_logicQuirk : WritesOnly [.v] s (s.setV x b).logicQuirk :=
  ⟨fun p hp => by cases p <;> simp_all [Part.Same], fun _ => by simp, by simp⟩

theorem writesOnly_loadRegs : WritesOnly [.v] s (s.loadRegs a x) :=
  ⟨fun p hp => by cases p <;> simp_all [Part.Same], fun _ => rfl, rfl⟩

theorem writesOnly_takeRandom : WritesOnly [.env] s s.takeRandom :=
  ⟨fun p hp => by cases p <;> simp_all [Part.Same], fun _ => by simp, by simp⟩

theorem writesOnly_setPc : WritesOnly [.pc] s (s.setPc a) :=
  ⟨fun p hp => by cases p <;> simp_all [Part.Same], fun _ => rfl, rfl⟩

theorem writesOnly_skipIf (c : Bool) : WritesOnly [.pc] s (s.skipIf c) :=
  ⟨fun p hp => by cases p <;> simp_all [Part.Same], fun _ => by simp, by simp⟩

theorem writesOnly_push (h : s.sp.val < 16) : WritesOnly [.stack, .sp] s (s.push a h) :=
  ⟨fun p hp => by cases p <;> simp_all [Part.Same], fun _ => rfl, rfl⟩

theorem writesOnly_pop : WritesOnly [.sp] s s.pop :=
  ⟨fun p hp => by cases p <;> simp_all [Part.Same], fun _ => rfl, rfl⟩

theorem writesOnly_raise (e : FatalError) : WritesOnly [.fault, .execState] s (s.raise e) :=
  ⟨fun p hp => by cases p <;> simp_all [Part.Same], fun _ => rfl, rfl⟩

theorem writesOnly_setI : WritesOnly [.i] s (s.setI a) :=
  ⟨fun p hp => by cases p <;> simp_all [Part.Same], fun _ => rfl, rfl⟩

theorem writesOnly_postIndex : WritesOnly (postIndexParts s.cfg.quirks) s (s.postIndex a x) := by
  unfold State.postIndex postIndexParts
  split
  · exact writesOnly_setI s _
  · exact writesOnly_nil s

theorem writesOnly_writeBytes (bs : List Byte) : WritesOnly [.mem] s (s.writeBytes a bs) :=
  ⟨fun p hp => by cases p <;> simp_all [Part.Same], fun h => absurd (List.mem_singleton_self _) h, by simp⟩

theorem writesOnly_emit (o : Output) : WritesOnly [.outputs] s (s.emit o) :=
  ⟨fun p hp => by cases p <;> simp_all [Part.Same], fun _ => rfl, rfl⟩

theorem writesOnly_fb (fb : Frame) : WritesOnly [.fb] s { s with fb := fb } :=
  ⟨fun p hp => by cases p <;> simp_all [Part.Same, State.readByte, State.getV], fun _ => rfl, rfl⟩

theorem writesOnly_dt : WritesOnly [.dt] s { s with dt := b } :=
  ⟨fun p hp => by cases p <;> simp_all [Part.Same, State.readByte, State.getV], fun _ => rfl, rfl⟩

theorem writesOnly_st : WritesOnly [.st] s { s with st := b } :=
  ⟨fun p hp => by cases p <;> simp_all [Part.Same, State.readByte, State.getV], fun _ => rfl, rfl⟩

end

/-! ### The parts each instruction writes -/

/-- The parts an instruction may write when it runs on `s`, as the rules of spec/41_flow.md to spec/45_keypad_timers.md say. -/
def footprint (s : State) : Instr → List Part
  | .cls => [.fb, .outputs]
  | .drw _ _ _ => [.fb, .v, .outputs]
  | .ret => if 0 < s.sp.val then [.sp, .pc] else [.fault, .execState]
  | .call _ => if s.sp.val < 16 then [.stack, .sp, .pc] else [.fault, .execState]
  | .jp _ | .jpV0 _ | .seImm _ _ | .sneImm _ _ | .seReg _ _ | .sneReg _ _ | .skp _ | .sknp _ => [.pc]
  | .ldImm _ _ | .addImm _ _ | .ldReg _ _ | .orReg _ _ | .andReg _ _ | .xorReg _ _ => [.v]
  | .addReg _ _ | .sub _ _ | .shr _ _ | .subn _ _ | .shl _ _ | .ldVxDt _ => [.v]
  | .rnd _ _ => [.env, .v]
  | .ldI _ | .addIVx _ | .ldFVx _ => [.i]
  | .ldVxK _ => if s.firstKey = none then [.pc] else [.v]
  | .ldDtVx _ => [.dt]
  | .ldStVx x => if s.st = 0x00#8 ∧ s.getV x ≠ 0x00#8 then [.st, .outputs] else [.st]
  | .ldBVx _ => [.mem]
  | .ldMemVx _ => [.mem] ++ postIndexParts s.cfg.quirks
  | .ldVxMem _ => [.v] ++ postIndexParts s.cfg.quirks

/-- An instruction writes no part outside its footprint. -/
theorem exec_writesOnly {i : Instr} {s t : State} (h : exec i s = .next t) : WritesOnly (footprint s i) s t := by
  cases i
  case cls => cases h; exact (writesOnly_fb s _).trans (writesOnly_emit _ _)
  case drw =>
    cases h
    exact ((writesOnly_fb s _).trans (writesOnly_setV _ _ _)).trans (writesOnly_emit _ _)
  case ret =>
    obtain ⟨hsp, rfl⟩ | ⟨hsp, rfl⟩ := exec_ret_next h
    · rw [footprint, if_pos hsp]; exact (writesOnly_pop s).trans (writesOnly_setPc _ _)
    · rw [footprint, if_neg (by omega)]; exact writesOnly_raise s _
  case call =>
    obtain ⟨hsp, rfl⟩ | ⟨hsp, rfl⟩ := exec_call_next h
    · rw [footprint, if_pos hsp]; exact (writesOnly_push s _ hsp).trans (writesOnly_setPc _ _)
    · rw [footprint, if_neg (by omega)]; exact writesOnly_raise s _
  case ldVxK =>
    obtain ⟨k, hk, rfl⟩ | ⟨hk, rfl⟩ := exec_ldVxK_next h
    · rw [footprint, if_neg (by simp [hk])]; exact writesOnly_setV s _ _
    · rw [footprint, if_pos hk]; exact writesOnly_setPc s _
  case ldStVx =>
    obtain ⟨hb, rfl⟩ | ⟨hb, rfl⟩ := exec_ldStVx_next h
    · rw [footprint, if_pos hb]; exact (writesOnly_st s _).trans (writesOnly_emit _ _)
    · rw [footprint, if_neg hb]; exact writesOnly_st s _
  case ldDtVx => cases h; exact writesOnly_dt s _
  case jp | jpV0 => cases h; exact writesOnly_setPc s _
  case seImm | sneImm | seReg | sneReg | skp | sknp => cases h; exact writesOnly_skipIf s _
  case ldImm | addImm | ldReg | ldVxDt => cases h; exact writesOnly_setV s _ _
  case orReg | andReg | xorReg => cases h; exact writesOnly_setV_logicQuirk s _ _
  case addReg | sub | shr | subn | shl => cases h; exact writesOnly_setVThenFlag s _ _ _
  case rnd => cases h; exact (writesOnly_takeRandom s).trans (writesOnly_setV _ _ _)
  case ldI | addIVx | ldFVx => cases h; exact writesOnly_setI s _
  case ldBVx => cases h; exact writesOnly_writeBytes s _ _
  case ldMemVx => cases h; simpa [footprint] using (writesOnly_writeBytes s _ _).trans (writesOnly_postIndex _ _ _)
  case ldVxMem x => cases h; exact (writesOnly_loadRegs s x s.i).trans (writesOnly_postIndex (s.loadRegs s.i x) x s.i)

end Sys2Proof.Machine

/-! SUPPORT. The next state of an instruction step and of LoadRom, as lemmas to take a step apart with. -/

namespace Sys2Proof.Machine

/-- The next state of an instruction step: the state as it was when the step is not enabled, else the completion of the
instruction's or of the fatal error's state. -/
theorem instructionStep_next {s t : State} (h : instructionStep s = .next t) :
    t = s ∨ (∃ i u, decodeWord s.fetchWord = .ok i ∧ exec i s.fetch = .next u ∧ t = u.complete) ∨
      t = (s.fetch.raise .invalidOpcode).complete := by
  obtain ⟨-, he⟩ | ⟨i, -, hd, he⟩ | ⟨r, -, -, he⟩ := instructionStep_cases s <;> rw [he] at h
  · cases h; exact .inl rfl
  · obtain ⟨u, hu⟩ := exec_answers i s.fetch
    rw [hu] at h
    cases h
    exact .inr (.inl ⟨i, u, hd, hu, rfl⟩)
  · cases h; exact .inr (.inr rfl)

/-- The next state of LoadRom, which answers none unless EXEC is Stopped (R254). -/
theorem loadRom_next {s t : State} {bytes : List Byte} (h : s.loadRom bytes = .next t) :
    t = s.emit .romTooLarge ∨ t = (s.resetCore.writeBytes romBase bytes).emit .loadOk := by
  unfold State.loadRom at h
  split at h
  · split at h <;> cases h
    · exact .inl rfl
    · exact .inr rfl
  · cases h

end Sys2Proof.Machine

/-! PROOFS. The invariant of R46 (O48, O49): one rule per operation, then instructions, events and the step. -/

namespace Sys2Proof.Machine

/-! ### Under each operation -/

namespace State.Inv

variable {s : State}

theorem resetWith (cfg : Config) : (State.resetWith cfg).Inv :=
  ⟨rfl, by simp [State.resetWith], by simp [State.resetWith], fun k => by simp [State.resetWith], fun h => absurd rfl h⟩

theorem resetCore : s.resetCore.Inv := resetWith s.cfg

/-- FAULT is None in every state of EXEC but Stopped. -/
theorem fault_eq_none (h : s.Inv) (he : s.execState ≠ .stopped) : s.fault = none := by
  obtain ⟨-, -, -, -, hf⟩ := h
  exact Classical.byContradiction fun hn => he (hf hn)

theorem setExecState (h : s.Inv) (hf : s.fault = none) (e : ExecState) : { s with execState := e }.Inv := by
  obtain ⟨hm, hp, hi, hs, -⟩ := h
  exact ⟨hm, hp, hi, hs, fun hn => absurd hf hn⟩

theorem setV (h : s.Inv) (x : RegIx) (b : Byte) : (s.setV x b).Inv := h

theorem setVThenFlag (h : s.Inv) (x : RegIx) (b f : Byte) : (s.setVThenFlag x b f).Inv := h

theorem logicQuirk (h : s.Inv) : s.logicQuirk.Inv := by
  unfold State.logicQuirk
  split <;> exact h

theorem loadRegs (h : s.Inv) (a : Word) (x : RegIx) : (s.loadRegs a x).Inv := h

theorem takeRandom (h : s.Inv) : s.takeRandom.Inv := by
  unfold State.takeRandom
  split <;> exact h

theorem emit (h : s.Inv) (o : Output) : (s.emit o).Inv := h

theorem setPc (h : s.Inv) (a : Word) : (s.setPc a).Inv := by
  obtain ⟨hm, -, hi, hs, hf⟩ := h
  exact ⟨hm, wrap12_lt a, hi, hs, hf⟩

theorem skipIf (h : s.Inv) (c : Bool) : (s.skipIf c).Inv := by
  unfold State.skipIf
  split
  · exact h.setPc _
  · exact h

theorem setI (h : s.Inv) (a : Word) : (s.setI a).Inv := by
  obtain ⟨hm, hp, -, hs, hf⟩ := h
  exact ⟨hm, hp, wrap12_lt a, hs, hf⟩

theorem postIndex (h : s.Inv) (a : Word) (x : RegIx) : (s.postIndex a x).Inv := by
  unfold State.postIndex
  split
  · exact h.setI _
  · exact h

theorem push (h : s.Inv) {a : Word} (ha : a.toNat < 0x1000) (hsp : s.sp.val < 16) : (s.push a hsp).Inv := by
  obtain ⟨hm, hp, hi, hs, hf⟩ := h
  refine ⟨hm, hp, hi, fun k => ?_, hf⟩
  simp only [State.push_stack, Fin.getElem_fin, Vector.getElem_set]
  split
  · exact ha
  · exact hs k

theorem pop (h : s.Inv) : s.pop.Inv := h

theorem raise (h : s.Inv) (e : FatalError) : (s.raise e).Inv := by
  obtain ⟨hm, hp, hi, hs, -⟩ := h
  exact ⟨hm, hp, hi, hs, fun _ => rfl⟩

theorem writeBytes (h : s.Inv) (a : Word) (bs : List Byte) : (s.writeBytes a bs).Inv := by
  obtain ⟨hm, hp, hi, hs, hf⟩ := h
  exact ⟨s.wf_writeBytes a bs hm, by simpa using hp, by simpa using hi, by simpa using hs, by simpa using hf⟩

theorem fetch (h : s.Inv) : s.fetch.Inv := by
  obtain ⟨hm, -, hi, hs, hf⟩ := h
  exact ⟨hm, wrap12_lt _, hi, hs, hf⟩

/-- A change of EXEC made in one state other than Stopped is free, as FAULT is None there. -/
theorem setExecState_if (h : s.Inv) {e : ExecState} (he : e ≠ .stopped) (e' : ExecState) :
    State.Inv (if s.execState = e then { s with execState := e' } else s) := by
  split
  case isTrue hs => exact h.setExecState (h.fault_eq_none (hs ▸ he)) e'
  case isFalse => exact h

theorem complete (h : s.Inv) : s.complete.Inv := h.setExecState_if (by decide) _

theorem hostPause (h : s.Inv) : s.hostPause.Inv := h.setExecState_if (by decide) _

theorem hostResume (h : s.Inv) : s.hostResume.Inv := h.setExecState_if (by decide) _

theorem hostStep (h : s.Inv) : s.hostStep.Inv := h.setExecState_if (by decide) _

theorem hostStart (h : s.Inv) : s.hostStart.Inv := by
  unfold State.hostStart
  split
  case isTrue hs => exact h.setExecState hs.2 _
  case isFalse => exact h

theorem tick (h : s.Inv) : s.tick.Inv := by
  simp only [State.tick]
  split
  · split <;> exact h
  · exact h

end State.Inv

/-! ### Under instructions and events -/

theorem exec_inv {i : Instr} {s t : State} (h : s.Inv) (ht : exec i s = .next t) : t.Inv := by
  cases i
  case ret =>
    obtain ⟨hsp, rfl⟩ | ⟨-, rfl⟩ := exec_ret_next ht
    · exact h.pop.setPc _
    · exact h.raise _
  case call =>
    have ⟨_, hpc, _⟩ := h
    obtain ⟨hsp, rfl⟩ | ⟨-, rfl⟩ := exec_call_next ht
    · exact (h.push hpc _).setPc _
    · exact h.raise _
  case ldVxK =>
    obtain ⟨k, -, rfl⟩ | ⟨-, rfl⟩ := exec_ldVxK_next ht
    · exact h.setV _ _
    · exact h.setPc _
  case ldStVx => obtain ⟨-, rfl⟩ | ⟨-, rfl⟩ := exec_ldStVx_next ht <;> exact h
  case cls | drw | ldDtVx => cases ht; exact h
  case jp | jpV0 => cases ht; exact h.setPc _
  case seImm | sneImm | seReg | sneReg | skp | sknp => cases ht; exact h.skipIf _
  case ldImm | addImm | ldReg | ldVxDt => cases ht; exact h.setV _ _
  case orReg | andReg | xorReg => cases ht; exact (h.setV _ _).logicQuirk
  case addReg | sub | shr | subn | shl => cases ht; exact h.setVThenFlag _ _ _
  case rnd => cases ht; exact h.takeRandom.setV _ _
  case ldI | addIVx | ldFVx => cases ht; exact h.setI _
  case ldBVx => cases ht; exact h.writeBytes _ _
  case ldMemVx => cases ht; exact (h.writeBytes _ _).postIndex _ _
  case ldVxMem => cases ht; exact (h.loadRegs _ _).postIndex _ _

theorem instructionStep_inv {s t : State} (h : s.Inv) (ht : instructionStep s = .next t) : t.Inv := by
  obtain rfl | ⟨i, u, -, hu, rfl⟩ | rfl := instructionStep_next ht
  · exact h
  · exact (exec_inv h.fetch hu).complete
  · exact (h.fetch.raise _).complete

theorem loadRom_inv {s t : State} {bytes : List Byte} (h : s.Inv) (ht : s.loadRom bytes = .next t) : t.Inv := by
  obtain rfl | rfl := loadRom_next ht
  · exact h.emit _
  · exact (State.Inv.resetCore.writeBytes _ _).emit _

theorem runEvent_inv {e : Event} {s t : State} (h : s.Inv) (ht : runEvent e s = .next t) : t.Inv := by
  cases e
  case instr => exact instructionStep_inv h ht
  case loadRom => exact loadRom_inv h ht
  case tick => cases ht; exact h.tick
  case start => cases ht; exact h.hostStart
  case pause => cases ht; exact h.hostPause
  case resume => cases ht; exact h.hostResume
  case step => cases ht; exact h.hostStep
  case stop => cases ht; exact .resetCore
  case setKey | setThrottle | read => cases ht; exact h

/-- Settles O49: each field of the reset state is a literal within its bound. -/
theorem resetMeetsInvariant : Obligations.ResetMeetsInvariant := ⟨.resetWith _, .resetWith⟩

/-- Settles O48: the step is one event on the state with that event taken, and every event keeps the invariant. -/
theorem stepKeepsInvariant : Obligations.StepKeepsInvariant := fun _ _ h ht =>
  runEvent_inv (s := State.takeEvent _) h ht

end Sys2Proof.Machine

/-! PROOFS. Which instructions write which part of the state (O54, O55, O56, O58), read off the footprints. -/

namespace Sys2Proof.Machine

section
variable {i : Instr} {s : State}

theorem Part.mem_ite {c : Prop} [Decidable c] {p : Part} {ps qs : List Part} :
    p ∈ (if c then ps else qs) ↔ if c then p ∈ ps else p ∈ qs := by
  split <;> rfl

theorem key_not_mem_footprint : .key ∉ footprint s i := by
  cases i <;> simp [footprint, postIndexParts, Part.mem_ite]

theorem cfg_not_mem_footprint : .cfg ∉ footprint s i := by
  cases i <;> simp [footprint, postIndexParts, Part.mem_ite]

theorem opcode_not_mem_footprint : .opcode ∉ footprint s i := by
  cases i <;> simp [footprint, postIndexParts, Part.mem_ite]

theorem mem_mem_footprint_iff : .mem ∈ footprint s i ↔ ∃ x, i = .ldBVx x ∨ i = .ldMemVx x := by
  cases i <;> simp [footprint, postIndexParts, Part.mem_ite]

theorem fb_mem_footprint_iff : .fb ∈ footprint s i ↔ i = .cls ∨ ∃ x y n, i = .drw x y n := by
  cases i <;> simp [footprint, postIndexParts, Part.mem_ite]

theorem stack_mem_footprint_iff : .stack ∈ footprint s i ↔ s.sp.val < 16 ∧ ∃ nnn, i = .call nnn := by
  cases i <;> simp [footprint, postIndexParts, Part.mem_ite]

theorem sp_mem_footprint_iff : .sp ∈ footprint s i ↔
    (0 < s.sp.val ∧ i = .ret) ∨ (s.sp.val < 16 ∧ ∃ nnn, i = .call nnn) := by
  cases i <;> simp [footprint, postIndexParts, Part.mem_ite]

theorem dt_mem_footprint_iff : .dt ∈ footprint s i ↔ ∃ x, i = .ldDtVx x := by
  cases i <;> simp [footprint, postIndexParts, Part.mem_ite]

theorem st_mem_footprint_iff : .st ∈ footprint s i ↔ ∃ x, i = .ldStVx x := by
  cases i <;> simp [footprint, postIndexParts, Part.mem_ite]

theorem i_mem_footprint_iff : .i ∈ footprint s i ↔
    (∃ nnn, i = .ldI nnn) ∨ (∃ x, i = .addIVx x ∨ i = .ldFVx x) ∨
      (s.cfg.quirks.loadstore = true ∧ ∃ x, i = .ldMemVx x ∨ i = .ldVxMem x) := by
  cases i <;> simp [footprint, postIndexParts, Part.mem_ite]

theorem kinds_of_pc_mem_footprint : .pc ∈ footprint s i →
    (∃ nnn, i = .jp nnn ∨ i = .call nnn ∨ i = .jpV0 nnn) ∨ i = .ret ∨
      (∃ x nn, i = .seImm x nn ∨ i = .sneImm x nn) ∨ (∃ x y, i = .seReg x y ∨ i = .sneReg x y) ∨
      (∃ x, i = .skp x ∨ i = .sknp x) ∨ (∃ x, i = .ldVxK x ∧ s.firstKey = none) := by
  cases i <;> simp [footprint, postIndexParts, Part.mem_ite]

end

/-- Settles O54: no footprint lists KEY, the configuration or OPCODE, and no instruction takes an event. -/
theorem noInstructionReachesHostState : Obligations.NoInstructionReachesHostState := by
  intro i s t h
  have hw := exec_writesOnly h
  exact ⟨hw.unchanged .key key_not_mem_footprint, hw.unchanged .cfg cfg_not_mem_footprint,
    hw.unchanged .opcode opcode_not_mem_footprint, hw.inputs_eq⟩

/-- Settles O55: a part that changed is in the footprint, and so names its writers. -/
theorem writersOfMemoryAndDevices : Obligations.WritersOfMemoryAndDevices := by
  intro i s t h
  have hw := exec_writesOnly h
  refine ⟨fun hm => ?_, fun hf => ?_, fun hs => ?_, fun hp => ?_, fun hd => ?_, fun hs => ?_⟩
  · exact mem_mem_footprint_iff.1 (Classical.byContradiction fun hn => hm (hw.mem_eq hn))
  · exact fb_mem_footprint_iff.1 (hw.mem_of_not_same hf)
  · exact (stack_mem_footprint_iff.1 (hw.mem_of_not_same hs)).2
  · exact (sp_mem_footprint_iff.1 (hw.mem_of_not_same hp)).imp And.right And.right
  · exact dt_mem_footprint_iff.1 (hw.mem_of_not_same hd)
  · exact st_mem_footprint_iff.1 (hw.mem_of_not_same hs)

/-- Settles O56: I changed, so it is in the footprint. -/
theorem writersOfIndex : Obligations.WritersOfIndex := fun _ _ _ h hi =>
  i_mem_footprint_iff.1 ((exec_writesOnly h).mem_of_not_same hi)

/-- Settles O58: PC changed, so it is in the footprint; Fx0A has it there only when the key scan finds no key. -/
theorem writersOfPc : Obligations.WritersOfPc := by
  intro i s t h hpc
  simpa only [State.firstKey_eq_none] using kinds_of_pc_mem_footprint ((exec_writesOnly h).mem_of_not_same hpc)

end Sys2Proof.Machine

/-! PROOFS. Q and FONT are fixed for the run (O51): every event but a change of THROTTLE leaves the whole configuration. -/

namespace Sys2Proof.Machine

section
variable {s t : State}

theorem exec_cfg {i : Instr} (h : exec i s = .next t) : t.cfg = s.cfg :=
  (exec_writesOnly h).unchanged .cfg cfg_not_mem_footprint

theorem instructionStep_cfg (h : instructionStep s = .next t) : t.cfg = s.cfg := by
  obtain rfl | ⟨i, u, -, hu, rfl⟩ | rfl := instructionStep_next h
  · rfl
  · simpa using exec_cfg hu
  · simp

theorem loadRom_cfg {bytes : List Byte} (h : s.loadRom bytes = .next t) : t.cfg = s.cfg := by
  obtain rfl | rfl := loadRom_next h <;> simp

@[simp] theorem State.tick_cfg (s : State) : s.tick.cfg = s.cfg := by
  simp only [State.tick]
  split
  · split <;> rfl
  · rfl

@[simp] theorem State.hostStart_cfg (s : State) : s.hostStart.cfg = s.cfg := by unfold State.hostStart; split <;> rfl
@[simp] theorem State.hostPause_cfg (s : State) : s.hostPause.cfg = s.cfg := by unfold State.hostPause; split <;> rfl
@[simp] theorem State.hostResume_cfg (s : State) : s.hostResume.cfg = s.cfg := by unfold State.hostResume; split <;> rfl
@[simp] theorem State.hostStep_cfg (s : State) : s.hostStep.cfg = s.cfg := by unfold State.hostStep; split <;> rfl

/-- Every event but a change of THROTTLE leaves the whole configuration. -/
theorem runEvent_cfg {e : Event} (he : ∀ d, e ≠ .setThrottle d) (h : runEvent e s = .next t) : t.cfg = s.cfg := by
  cases e
  case instr => exact instructionStep_cfg h
  case loadRom => exact loadRom_cfg h
  case setThrottle d => exact absurd rfl (he d)
  case setKey | read | stop => cases h; rfl
  case tick | start | pause | resume | step => cases h; simp

end

/-- Settles O51: the one event that changes the configuration writes THROTTLE alone. -/
theorem quirksAndFontNeverChange : Obligations.QuirksAndFontNeverChange := by
  intro s t h
  by_cases he : ∃ d, s.nextEvent = .setThrottle d
  · obtain ⟨d, hd⟩ := he
    rw [step, hd] at h
    cases h
    exact ⟨rfl, rfl⟩
  · have hcfg : t.cfg = s.cfg := runEvent_cfg (s := s.takeEvent) (not_exists.1 he) h
    simp [hcfg]

end Sys2Proof.Machine

/-! PROOFS. Which instructions write VF (O57): the registers each operation, and so each instruction, may write. -/

namespace Sys2Proof.Machine

/-! ### The registers each operation writes -/

section
variable (s : State) (x : RegIx)

theorem regsUnchangedBut_of_v_eq {s t : State} (rs : List RegIx) (h : t.v = s.v) : RegsUnchangedBut rs s t :=
  fun r _ => State.getV_congr h r

theorem RegsUnchangedBut.trans {rs qs : List RegIx} {s t u : State} (hst : RegsUnchangedBut rs s t)
    (htu : RegsUnchangedBut qs t u) : RegsUnchangedBut (rs ++ qs) s u := by
  intro r hr
  rw [List.mem_append, not_or] at hr
  exact (htu r hr.2).trans (hst r hr.1)

theorem regsUnchangedBut_setV (b : Byte) : RegsUnchangedBut [x] s (s.setV x b) :=
  fun r hr => State.getV_setV_of_ne s b (by simpa using hr)

theorem regsUnchangedBut_setVThenFlag (b f : Byte) : RegsUnchangedBut [x, vfIx] s (s.setVThenFlag x b f) :=
  (regsUnchangedBut_setV s x b).trans (regsUnchangedBut_setV _ vfIx f)

/-- VF is written by 8xy1, 8xy2 and 8xy3 under LogicQuirk (R41). -/
def logicQuirkRegs (q : Quirks) : List RegIx := if q.logic then [vfIx] else []

theorem regsUnchangedBut_logicQuirk : RegsUnchangedBut (logicQuirkRegs s.cfg.quirks) s s.logicQuirk := by
  unfold State.logicQuirk logicQuirkRegs
  split
  · exact regsUnchangedBut_setV s vfIx _
  · exact regsUnchangedBut_of_v_eq _ rfl

end

/-- The numbers of V0..Vx (R176). -/
def regsThrough (x : RegIx) : List RegIx := ((List.finRange 16).map BitVec.ofFin).filter fun r => r.toNat ≤ x.toNat

theorem mem_regsThrough_iff {x r : RegIx} : r ∈ regsThrough x ↔ r.toNat ≤ x.toNat := by
  have hr : r ∈ (List.finRange 16).map BitVec.ofFin := List.mem_map.2 ⟨r.toFin, List.mem_finRange _, rfl⟩
  simp [regsThrough, List.mem_filter, hr]

theorem regsUnchangedBut_loadRegs (s : State) (a : Word) (x : RegIx) :
    RegsUnchangedBut (regsThrough x) s (s.loadRegs a x) := by
  intro r hr
  rw [mem_regsThrough_iff] at hr
  rw [State.getV_loadRegs, if_neg hr]

/-! ### The registers each instruction writes -/

/-- The general registers an instruction may write under the quirks `q`: its destination and VF as a flag (R22). -/
def regsWritten (q : Quirks) : Instr → List RegIx
  | .ldImm x _ | .addImm x _ | .ldReg x _ | .rnd x _ | .ldVxDt x | .ldVxK x => [x]
  | .orReg x _ | .andReg x _ | .xorReg x _ => [x] ++ logicQuirkRegs q
  | .addReg x _ | .sub x _ | .shr x _ | .subn x _ | .shl x _ => [x, vfIx]
  | .drw _ _ _ => [vfIx]
  | .ldVxMem x => regsThrough x
  | _ => []

/-- An instruction writes no register outside `regsWritten`. -/
theorem exec_regsUnchangedBut {i : Instr} {s t : State} (h : exec i s = .next t) :
    RegsUnchangedBut (regsWritten s.cfg.quirks i) s t := by
  have hv : .v ∉ footprint s i → ∀ rs, RegsUnchangedBut rs s t := fun hn _ r _ => (exec_writesOnly h).unchanged _ hn r
  cases i
  case ldImm | addImm | ldReg | ldVxDt => cases h; exact regsUnchangedBut_setV s _ _
  case rnd => cases h; exact (regsUnchangedBut_of_v_eq [] (by simp)).trans (regsUnchangedBut_setV s.takeRandom _ _)
  case ldVxK =>
    obtain ⟨k, -, rfl⟩ | ⟨-, rfl⟩ := exec_ldVxK_next h
    · exact regsUnchangedBut_setV s _ _
    · exact regsUnchangedBut_of_v_eq _ rfl
  case orReg | andReg | xorReg => cases h; exact (regsUnchangedBut_setV s _ _).trans (regsUnchangedBut_logicQuirk (s.setV _ _))
  case addReg | sub | shr | subn | shl => cases h; exact regsUnchangedBut_setVThenFlag s _ _ _
  case drw => cases h; exact regsUnchangedBut_setV _ _ _
  case ldVxMem => cases h; exact fun r hr => (State.getV_postIndex _ _ _ r).trans (regsUnchangedBut_loadRegs s _ _ r hr)
  all_goals exact hv (by simp [footprint, postIndexParts, Part.mem_ite]) _

/-- Only V0..VF reaches VF. -/
theorem vfIx_mem_regsThrough_iff {x : RegIx} : vfIx ∈ regsThrough x ↔ x = vfIx := by
  rw [mem_regsThrough_iff]
  bv_omega

/-- Settles O57: a VF that changed is among the registers written, as the destination or as the flag. -/
theorem writersOfVf : Obligations.WritersOfVf := by
  intro i s t h hvf
  have hm : vfIx ∈ regsWritten s.cfg.quirks i :=
    Classical.byContradiction fun hn => hvf (exec_regsUnchangedBut h vfIx hn)
  cases i <;> simp_all [regsWritten, logicQuirkRegs, vfIx_mem_regsThrough_iff, or_comm, eq_comm (a := vfIx)]

end Sys2Proof.Machine

/-! PROOFS. THROTTLE has no semantic effect (O46): every operation commutes with a change of it. -/

namespace Sys2Proof.Machine

namespace State

variable (s : State) (d : Nat)

theorem ite_setThrottle (c : Prop) [Decidable c] (s t : State) :
    (if c then s else t).setThrottle d = if c then s.setThrottle d else t.setThrottle d :=
  apply_ite (setThrottle · d) c s t

theorem skipIf_setThrottle (c : Bool) : (s.setThrottle d).skipIf c = (s.skipIf c).setThrottle d := by
  rw [skipIf, skipIf, ite_setThrottle]
  rfl

theorem logicQuirk_setThrottle : (s.setThrottle d).logicQuirk = s.logicQuirk.setThrottle d := by
  rw [logicQuirk, logicQuirk, ite_setThrottle]
  rfl

theorem postIndex_setThrottle (a : Word) (x : RegIx) : (s.setThrottle d).postIndex a x = (s.postIndex a x).setThrottle d := by
  rw [postIndex, postIndex, ite_setThrottle]
  rfl

theorem takeRandom_setThrottle : (s.setThrottle d).takeRandom = s.takeRandom.setThrottle d := by
  unfold takeRandom
  cases hr : s.rnd <;> simp [setThrottle, hr]

theorem writeBytes_setThrottle (a : Word) (bs : List Byte) :
    (s.setThrottle d).writeBytes a bs = (s.writeBytes a bs).setThrottle d := by
  induction bs generalizing s a with
  | nil => rfl
  | cons b bs ih => exact ih (s.writeByte a b) (a + 1#16)

theorem complete_setThrottle : (s.setThrottle d).complete = s.complete.setThrottle d := by
  rw [complete, complete, ite_setThrottle]
  rfl

theorem tick_setThrottle : (s.setThrottle d).tick = s.tick.setThrottle d := by
  simp only [tick, ite_setThrottle]
  rfl

theorem hostStart_setThrottle : (s.setThrottle d).hostStart = s.hostStart.setThrottle d := by
  rw [hostStart, hostStart, ite_setThrottle]
  rfl

theorem hostPause_setThrottle : (s.setThrottle d).hostPause = s.hostPause.setThrottle d := by
  rw [hostPause, hostPause, ite_setThrottle]
  rfl

theorem hostResume_setThrottle : (s.setThrottle d).hostResume = s.hostResume.setThrottle d := by
  rw [hostResume, hostResume, ite_setThrottle]
  rfl

theorem hostStep_setThrottle : (s.setThrottle d).hostStep = s.hostStep.setThrottle d := by
  rw [hostStep, hostStep, ite_setThrottle]
  rfl

end State

section
variable (s : State) (d : Nat)

theorem exec_setThrottle (i : Instr) :
    exec i (s.setThrottle d) = mapNext (fun t => t.setThrottle d) (exec i s) := by
  cases i
  case seImm | sneImm | seReg | sneReg | skp | sknp => exact congrArg Host.Outcome.next (s.skipIf_setThrottle d _)
  case orReg | andReg | xorReg => exact congrArg Host.Outcome.next ((s.setV _ _).logicQuirk_setThrottle d)
  case ret =>
    by_cases h : 0 < s.sp.val
    · rw [exec, exec, execRet, execRet, dif_pos h, dif_pos (c := 0 < (s.setThrottle d).sp.val) h]; rfl
    · rw [exec, exec, execRet, execRet, dif_neg h, dif_neg (c := 0 < (s.setThrottle d).sp.val) h]; rfl
  case call =>
    by_cases h : s.sp.val < 16
    · rw [exec, exec, execCall, execCall, dif_pos h, dif_pos (c := (s.setThrottle d).sp.val < 16) h]; rfl
    · rw [exec, exec, execCall, execCall, dif_neg h, dif_neg (c := (s.setThrottle d).sp.val < 16) h]; rfl
  case ldVxK =>
    have hk : (s.setThrottle d).firstKey = s.firstKey := rfl
    simp only [exec, execLdVxK, hk]
    split <;> rfl
  case ldStVx x =>
    have hs : (s.setThrottle d).st = s.st := rfl
    have hv : (s.setThrottle d).getV x = s.getV x := rfl
    simp only [exec, execLdStVx, hs, hv]
    split <;> rfl
  case rnd =>
    simp only [exec, execRnd, State.takeRandom_setThrottle]
    rfl
  case ldBVx => exact congrArg Host.Outcome.next (s.writeBytes_setThrottle d _ _)
  case ldMemVx =>
    simp only [exec, execLdMemVx, State.writeBytes_setThrottle, State.postIndex_setThrottle]
    rfl
  case ldVxMem => exact congrArg Host.Outcome.next ((s.loadRegs _ _).postIndex_setThrottle d _ _)
  all_goals rfl

theorem completed_setThrottle (r : Result) :
    completed (mapNext (fun t => t.setThrottle d) r) = mapNext (fun t => t.setThrottle d) (completed r) := by
  cases r
  case next t => exact congrArg Host.Outcome.next (t.complete_setThrottle d)
  all_goals rfl

theorem dispatch_setThrottle : dispatch (s.setThrottle d) = mapNext (fun t => t.setThrottle d) (dispatch s) := by
  cases hd : decodeWord s.opcode with
  | ok i => rw [dispatch_ok hd, dispatch_ok (s := s.setThrottle d) hd, exec_setThrottle]
  | error r => rw [dispatch_error hd, dispatch_error (s := s.setThrottle d) hd]; rfl

theorem instructionStep_setThrottle :
    instructionStep (s.setThrottle d) = mapNext (fun t => t.setThrottle d) (instructionStep s) := by
  have he : (s.setThrottle d).enabled = s.enabled := rfl
  have hf : (s.setThrottle d).fetch = s.fetch.setThrottle d := rfl
  unfold instructionStep
  rw [he, hf, dispatch_setThrottle, completed_setThrottle]
  split <;> rfl

theorem loadRom_setThrottle (bytes : List Byte) :
    (s.setThrottle d).loadRom bytes = mapNext (fun t => t.setThrottle d) (s.loadRom bytes) := by
  have he : (s.setThrottle d).execState = s.execState := rfl
  have hr : (s.setThrottle d).resetCore = s.resetCore.setThrottle d := rfl
  unfold State.loadRom
  rw [he, hr, State.writeBytes_setThrottle]
  split
  · split <;> rfl
  · rfl

theorem runEvent_setThrottle {e : Event} (he : ∀ d', e ≠ .setThrottle d') :
    runEvent e (s.setThrottle d) = mapNext (fun t => t.setThrottle d) (runEvent e s) := by
  cases e
  case instr => exact instructionStep_setThrottle s d
  case loadRom => exact loadRom_setThrottle s d _
  case setThrottle d' => exact absurd rfl (he d')
  case tick => exact congrArg Host.Outcome.next (s.tick_setThrottle d)
  case start => exact congrArg Host.Outcome.next (s.hostStart_setThrottle d)
  case pause => exact congrArg Host.Outcome.next (s.hostPause_setThrottle d)
  case resume => exact congrArg Host.Outcome.next (s.hostResume_setThrottle d)
  case step => exact congrArg Host.Outcome.next (s.hostStep_setThrottle d)
  case stop | setKey | read => rfl

end

/-- Settles O46: taking the event and running it both commute with the change of THROTTLE. -/
theorem throttleHasNoEffect : Obligations.ThrottleHasNoEffect :=
  fun s d he => runEvent_setThrottle s.takeEvent d he

end Sys2Proof.Machine

/-! PROOFS. A byte that Fx55 stores at PC is fetched next (O12): Fx55's run of writes, read back at an equal wrapped address. -/

namespace Sys2Proof.Machine

theorem State.readByte_eq_of_wrap12_eq (s : State) {a c : Word} (h : wrap12 c = wrap12 a) : s.readByte c = s.readByte a := by
  rw [← s.readByte_wrap12 c, h, s.readByte_wrap12]

/-- Fx55 stores V[k] at every address that wraps to that of `a + k` (R61, R175). -/
theorem State.readByte_writeBytes_regsUpTo {s : State} {x : RegIx} {a c : Word} {k : Nat}
    (hw : Memory.wf s.cfg.font s.mem = true) (hk : k ≤ x.toNat) (hc : wrap12 c = wrap12 (a + BitVec.ofNat 16 k)) :
    (s.writeBytes a (s.regsUpTo x)).readByte c = s.getV (BitVec.ofNat 4 k) := by
  have hl : (s.regsUpTo x).length ≤ 0x1000 := by rw [s.length_regsUpTo]; omega
  have hi : k < (s.regsUpTo x).length := by rw [s.length_regsUpTo]; omega
  rw [State.readByte_eq_of_wrap12_eq _ hc, s.readByte_writeBytes a _ hl hw k hi, s.getElem_regsUpTo]

/-- The address after one that wraps to `a + k` wraps to `a + (k + 1)`. -/
theorem wrap12_add_one {a c : Word} {k : Nat} (h : wrap12 c = wrap12 (a + BitVec.ofNat 16 k)) :
    wrap12 (c + 1#16) = wrap12 (a + BitVec.ofNat 16 (k + 1)) := by
  rw [← wrap12_add_wrap12, h, wrap12_add_wrap12, BitVec.add_assoc, BitVec.ofNat_add]

/-- Settles O12: PC is unchanged by Fx55, so the two bytes fetched are V[k] at PC and V[k + 1] at the address after it. -/
theorem storedByteIsFetchedNext : Obligations.StoredByteIsFetchedNext := by
  intro s x k hw hk hpc
  refine ⟨_, rfl, ?_, fun hlt => ?_⟩
  · simpa [State.fetchWord] using State.readByte_writeBytes_regsUpTo hw hk hpc
  · simpa [State.fetchWord] using State.readByte_writeBytes_regsUpTo hw hlt (wrap12_add_one hpc)

end Sys2Proof.Machine

/-! PROOFS. Every step answers a next state, but for a LoadRom that is not admitted (O50): by the kinds of event. -/

namespace Sys2Proof.Machine

theorem instructionStep_answers (s : State) : ∃ t, instructionStep s = .next t := by
  obtain ⟨-, he⟩ | ⟨i, -, -, he⟩ | ⟨r, -, -, he⟩ := instructionStep_cases s
  · exact ⟨_, he⟩
  · obtain ⟨t, ht⟩ := exec_answers i s.fetch
    exact ⟨t.complete, by rw [he, ht]; rfl⟩
  · exact ⟨_, he⟩

theorem loadRom_answers {s : State} (h : s.execState = .stopped) (bytes : List Byte) : ∃ t, s.loadRom bytes = .next t := by
  rw [State.loadRom, if_pos h]
  split <;> exact ⟨_, rfl⟩

theorem loadRom_refused {s : State} (h : s.execState ≠ .stopped) (bytes : List Byte) :
    s.loadRom bytes = .refused .loadRomNotStopped := if_neg h

/-- An event answers a next state, or it is a LoadRom while EXEC is not Stopped, and refused (R254). -/
theorem runEvent_answers_or_refused (e : Event) (s : State) :
    (∃ t, runEvent e s = .next t) ∨
      (∃ bytes, e = .loadRom bytes ∧ s.execState ≠ .stopped ∧ runEvent e s = .refused .loadRomNotStopped) := by
  cases e
  case instr => exact .inl (instructionStep_answers s)
  case loadRom bytes =>
    by_cases h : s.execState = .stopped
    · exact .inl (loadRom_answers h bytes)
    · exact .inr ⟨bytes, rfl, h, loadRom_refused h bytes⟩
  all_goals exact .inl ⟨_, rfl⟩

/-- Settles O50: a step is one event, run on the state with that event taken, whose EXEC is the same. -/
theorem stepAlwaysAnswers : Obligations.StepAlwaysAnswers :=
  fun s => runEvent_answers_or_refused s.nextEvent s.takeEvent

end Sys2Proof.Machine

/-! PROOFS. The encoder and the decoder are inverse (O1, O2): the decoder reads back every field a format wrote, and what it answers
for a word, an instruction or a rejection, says which word that is. -/

namespace Sys2Proof

/-! ### Encode, then decode (R82, R91) -/

/-- By the formats of R82: the decoder reads back each field the format wrote, and op, n and nn select the constructor. -/
theorem decodeWord_encode (i : Instr) : decodeWord (encode i) = .ok i := by
  cases i
  case cls | ret => decide
  case jp | call | ldI | jpV0 => simp [encode, decodeWord]
  case seImm | sneImm | ldImm | addImm | rnd => simp [encode, decodeWord]
  case seReg | sneReg | drw => simp [encode, decodeWord]
  case ldReg | orReg | andReg | xorReg | addReg | sub | shr | subn | shl => simp [encode, decodeWord, decode8]
  case skp | sknp => simp [encode, decodeWord, decodeE]
  case ldVxDt | ldVxK | ldDtVx | ldStVx | addIVx | ldFVx | ldBVx | ldMemVx | ldVxMem => simp [encode, decodeWord, decodeF]

theorem encode_injective : Function.Injective encode := fun i j h =>
  Except.ok.inj (by rw [← decodeWord_encode i, h, decodeWord_encode])

/-- Settles O1: the two bytes make the encoded word again, and that word decodes to the instruction. -/
theorem decodeOfEncodeIsIdentity : Obligations.DecodeOfEncodeIsIdentity := by
  intro i rest
  rw [encodeBytes, List.cons_append, List.cons_append, List.nil_append, decode_cons_cons, wordOfBytes_bytes,
    decodeWord_encode]

/-! ### A word from its fixed digits, as the decoder reads them (R81, R82) -/

section
variable {w : Word} {op n : BitVec 4} {nn : Byte}

theorem encA_of_op (hop : w.toNat / 4096 = op.toNat) : encA op (nnnField w) = w := by
  rw [← opField_toNat] at hop
  rw [← BitVec.eq_of_toNat_eq hop, encA_fields]

theorem encXB_of_op (hop : w.toNat / 4096 = op.toNat) : encXB op (xField w) (nnField w) = w := by
  rw [← opField_toNat] at hop
  rw [← BitVec.eq_of_toNat_eq hop, encXB_fields]

theorem encXY_of_op (hop : w.toNat / 4096 = op.toNat) : encXY op (xField w) (yField w) (nField w) = w := by
  rw [← opField_toNat] at hop
  rw [← BitVec.eq_of_toNat_eq hop, encXY_fields]

theorem encXB_of_op_nn (hop : w.toNat / 4096 = op.toNat) (hnn : w.toNat % 256 = nn.toNat) : encXB op (xField w) nn = w := by
  rw [← nnField_toNat] at hnn
  rw [← BitVec.eq_of_toNat_eq hnn, encXB_of_op hop]

theorem encXY_of_op_n (hop : w.toNat / 4096 = op.toNat) (hn : w.toNat % 16 = n.toNat) :
    encXY op (xField w) (yField w) n = w := by
  rw [← nField_toNat] at hn
  rw [← BitVec.eq_of_toNat_eq hn, encXY_of_op hop]

end

/-! ### What an answer of the decoder says of the word (R84, R86) -/

/-- The class of invalid words that R86 lists under each rejection; no word is too short. -/
def Reject.Lists : Reject → Word → Prop
  | .tooFewBytes, _ => False
  | .invalid0nnn, w => w.toNat / 4096 = 0x0 ∧ w ≠ 0x00E0#16 ∧ w ≠ 0x00EE#16
  | .invalid5xyN, w => w.toNat / 4096 = 0x5 ∧ w.toNat % 16 ≠ 0
  | .invalid8xyN, w => w.toNat / 4096 = 0x8 ∧ w.toNat % 16 ∈ [0x8, 0x9, 0xA, 0xB, 0xC, 0xD, 0xF]
  | .invalid9xyN, w => w.toNat / 4096 = 0x9 ∧ w.toNat % 16 ≠ 0
  | .invalidExNN, w => w.toNat / 4096 = 0xE ∧ w.toNat % 256 ∉ [0x9E, 0xA1]
  | .invalidFxNN, w => w.toNat / 4096 = 0xF ∧ w.toNat % 256 ∉ [0x07, 0x0A, 0x15, 0x18, 0x1E, 0x29, 0x33, 0x55, 0x65]

/-- The answer accounts for the word: the word is the encoding of the instruction, or is in the class of the rejection. -/
def AnswersFor (w : Word) : Except Reject Instr → Prop
  | .ok i => encode i = w
  | .error r => r.Lists w

section
variable {w : Word}

theorem answersFor_decode8 (hop : w.toNat / 4096 = 0x8) : AnswersFor w (decode8 (xField w) (yField w) (w.toNat % 16)) := by
  unfold decode8
  split
  case h_10 => exact ⟨hop, by simp only [List.mem_cons, imp_false] at *; omega⟩
  all_goals exact encXY_of_op_n hop ‹_›

theorem answersFor_decodeE (hop : w.toNat / 4096 = 0xE) : AnswersFor w (decodeE (xField w) (w.toNat % 256)) := by
  unfold decodeE
  split
  case h_3 => exact ⟨hop, by simp_all⟩
  all_goals exact encXB_of_op_nn hop ‹_›

theorem answersFor_decodeF (hop : w.toNat / 4096 = 0xF) : AnswersFor w (decodeF (xField w) (w.toNat % 256)) := by
  unfold decodeF
  split
  case h_10 => exact ⟨hop, by simp_all⟩
  all_goals exact encXB_of_op_nn hop ‹_›

end

theorem nField_eq_zero_iff {w : Word} : nField w = 0#4 ↔ w.toNat % 16 = 0 := by
  rw [← BitVec.toNat_inj, nField_toNat]; rfl

/-- By the opcode map of R85: each op fixes a format, and 0, 5, 8, 9, E and F hold the invalid words. -/
theorem answersFor_decodeWord (w : Word) : AnswersFor w (decodeWord w) := by
  simp only [decodeWord, opField_toNat, nField_toNat, nnField_toNat, nField_eq_zero_iff]
  split
  case h_1 hop =>
    split_ifs with hcls hret
    · exact hcls.symm
    · exact hret.symm
    · exact ⟨hop, hcls, hret⟩
  case h_6 hop | h_10 hop =>
    split_ifs with hn
    · exact encXY_of_op_n hop hn
    · exact ⟨hop, hn⟩
  case h_2 hop | h_3 hop | h_11 hop | h_12 hop => exact encA_of_op hop
  case h_4 hop | h_5 hop | h_7 hop | h_8 hop | h_13 hop => exact encXB_of_op hop
  case h_14 hop => exact encXY_of_op hop
  case h_9 hop => exact answersFor_decode8 hop
  case h_15 hop => exact answersFor_decodeE hop
  case h_16 => exact answersFor_decodeF (by simp only [imp_false] at *; omega)

/-! ### Decode, then encode (R82, R84) -/

/-- Settles O2: an instruction accounts for the word it was decoded from. -/
theorem encodeOfDecodeIsIdentity : Obligations.EncodeOfDecodeIsIdentity := by
  intro w i h
  have hw := answersFor_decodeWord w
  rwa [h] at hw

end Sys2Proof

/-! PROOFS. The rows of R84 (O3, O4): a word that has a row's fixed digits is the encoding of an instruction of that row, so what
decodes is what some row admits, and the instruction fixes the row. -/

namespace Sys2Proof

/-! ### An instruction's encoding has its row's digits (R84) -/

open Laws.EncodesRow in
theorem encodesRow (i : Instr) : Statement i := by
  cases i
  exacts [cls, ret, jp _, call _, seImm _ _, sneImm _ _, seReg _ _, ldImm _ _, addImm _ _, ldReg _ _, orReg _ _, andReg _ _,
    xorReg _ _, addReg _ _, sub _ _, shr _ _, subn _ _, shl _ _, sneReg _ _, ldI _, jpV0 _, rnd _ _, drw _ _ _, skp _,
    sknp _, ldVxDt _, ldVxK _, ldDtVx _, ldStVx _, addIVx _, ldFVx _, ldBVx _, ldMemVx _, ldVxMem _]

theorem encode_and_mask (i : Instr) : encode i &&& i.row.mask = i.row.pattern := eq_of_beq (encodesRow i).1

/-! ### A word with a row's digits is an instruction of that row (R84) -/

section
variable {w p : Word} {op n : BitVec 4} {nn : Byte}

theorem encA_of_mask (h : w &&& 0xF000#16 = encA op 0x000#12) : encA op (nnnField w) = w := by
  rw [← encA_fields w, encA_mask] at h
  have hop : opField w = op := by simpa using congrArg opField h
  rw [← hop, encA_fields]

theorem encXB_of_mask (h : w &&& 0xF000#16 = encXB op 0x0#4 0x00#8) : encXB op (xField w) (nnField w) = w := by
  rw [← encXB_fields w, encXB_mask] at h
  have hop : opField w = op := by simpa using congrArg opField h
  rw [← hop, encXB_fields]

theorem encXY_of_mask_op (h : w &&& 0xF000#16 = encXY op 0x0#4 0x0#4 0x0#4) :
    encXY op (xField w) (yField w) (nField w) = w := by
  rw [← encXY_fields w, encXY_mask_op] at h
  have hop : opField w = op := by simpa using congrArg opField h
  rw [← hop, encXY_fields]

theorem encXB_of_mask_nn (h : w &&& 0xF0FF#16 = encXB op 0x0#4 nn) : encXB op (xField w) nn = w := by
  rw [← encXB_fields w, encXB_mask_nn] at h
  have hop : opField w = op := by simpa using congrArg opField h
  have hnn : nnField w = nn := by simpa using congrArg nnField h
  rw [← hop, ← hnn, encXB_fields]

theorem encXY_of_mask (h : w &&& 0xF00F#16 = encXY op 0x0#4 0x0#4 n) : encXY op (xField w) (yField w) n = w := by
  rw [← encXY_fields w, encXY_mask] at h
  have hop : opField w = op := by simpa using congrArg opField h
  have hn : nField w = n := by simpa using congrArg nField h
  rw [← hop, ← hn, encXY_fields]

theorem eq_of_mask_ones (h : w &&& 0xFFFF#16 = p) : p = w := h.symm.trans BitVec.and_allOnes

end

/-- The instruction has the row's digits and the word's own fields. -/
theorem exists_encode_of_mask (w : Word) : ∀ j : Instr, w &&& j.row.mask = j.row.pattern → ∃ i, encode i = w ∧ i.row = j.row
  | .cls, h => ⟨.cls, eq_of_mask_ones h, rfl⟩
  | .ret, h => ⟨.ret, eq_of_mask_ones h, rfl⟩
  | .jp _, h => ⟨.jp (nnnField w), encA_of_mask h, rfl⟩
  | .call _, h => ⟨.call (nnnField w), encA_of_mask h, rfl⟩
  | .seImm _ _, h => ⟨.seImm (xField w) (nnField w), encXB_of_mask h, rfl⟩
  | .sneImm _ _, h => ⟨.sneImm (xField w) (nnField w), encXB_of_mask h, rfl⟩
  | .seReg _ _, h => ⟨.seReg (xField w) (yField w), encXY_of_mask h, rfl⟩
  | .ldImm _ _, h => ⟨.ldImm (xField w) (nnField w), encXB_of_mask h, rfl⟩
  | .addImm _ _, h => ⟨.addImm (xField w) (nnField w), encXB_of_mask h, rfl⟩
  | .ldReg _ _, h => ⟨.ldReg (xField w) (yField w), encXY_of_mask h, rfl⟩
  | .orReg _ _, h => ⟨.orReg (xField w) (yField w), encXY_of_mask h, rfl⟩
  | .andReg _ _, h => ⟨.andReg (xField w) (yField w), encXY_of_mask h, rfl⟩
  | .xorReg _ _, h => ⟨.xorReg (xField w) (yField w), encXY_of_mask h, rfl⟩
  | .addReg _ _, h => ⟨.addReg (xField w) (yField w), encXY_of_mask h, rfl⟩
  | .sub _ _, h => ⟨.sub (xField w) (yField w), encXY_of_mask h, rfl⟩
  | .shr _ _, h => ⟨.shr (xField w) (yField w), encXY_of_mask h, rfl⟩
  | .subn _ _, h => ⟨.subn (xField w) (yField w), encXY_of_mask h, rfl⟩
  | .shl _ _, h => ⟨.shl (xField w) (yField w), encXY_of_mask h, rfl⟩
  | .sneReg _ _, h => ⟨.sneReg (xField w) (yField w), encXY_of_mask h, rfl⟩
  | .ldI _, h => ⟨.ldI (nnnField w), encA_of_mask h, rfl⟩
  | .jpV0 _, h => ⟨.jpV0 (nnnField w), encA_of_mask h, rfl⟩
  | .rnd _ _, h => ⟨.rnd (xField w) (nnField w), encXB_of_mask h, rfl⟩
  | .drw _ _ _, h => ⟨.drw (xField w) (yField w) (nField w), encXY_of_mask_op h, rfl⟩
  | .skp _, h => ⟨.skp (xField w), encXB_of_mask_nn h, rfl⟩
  | .sknp _, h => ⟨.sknp (xField w), encXB_of_mask_nn h, rfl⟩
  | .ldVxDt _, h => ⟨.ldVxDt (xField w), encXB_of_mask_nn h, rfl⟩
  | .ldVxK _, h => ⟨.ldVxK (xField w), encXB_of_mask_nn h, rfl⟩
  | .ldDtVx _, h => ⟨.ldDtVx (xField w), encXB_of_mask_nn h, rfl⟩
  | .ldStVx _, h => ⟨.ldStVx (xField w), encXB_of_mask_nn h, rfl⟩
  | .addIVx _, h => ⟨.addIVx (xField w), encXB_of_mask_nn h, rfl⟩
  | .ldFVx _, h => ⟨.ldFVx (xField w), encXB_of_mask_nn h, rfl⟩
  | .ldBVx _, h => ⟨.ldBVx (xField w), encXB_of_mask_nn h, rfl⟩
  | .ldMemVx _, h => ⟨.ldMemVx (xField w), encXB_of_mask_nn h, rfl⟩
  | .ldVxMem _, h => ⟨.ldVxMem (xField w), encXB_of_mask_nn h, rfl⟩

/-- Settles O3: the word that decodes is an encoding, which has its row's digits; the word with a row's digits is an encoding, which
decodes. -/
theorem wordDecodesExactlyWhenRowMatches : Obligations.WordDecodesExactlyWhenRowMatches := by
  intro w j
  constructor
  · rintro ⟨i, hi, hrow⟩
    rw [← encodeOfDecodeIsIdentity w i hi, ← hrow, encode_and_mask]
  · intro h
    obtain ⟨i, rfl, hrow⟩ := exists_encode_of_mask w j h
    exact ⟨i, decodeWord_encode i, hrow⟩

theorem exists_encode_of_admits {w : Word} {r : OpcodeRow} (hr : r ∈ opcodeRows) (h : r.admits w = true) :
    ∃ i, encode i = w ∧ i.row = r := by
  obtain ⟨j, -, rfl⟩ := List.mem_map.1 hr
  exact exists_encode_of_mask w j (eq_of_beq h)

/-- Settles O4: a word that matches two rows encodes an instruction of each, and these are one instruction. -/
theorem opcodeRowsAreDisjoint : Obligations.OpcodeRowsAreDisjoint := by
  refine ⟨rfl, fun w r q hr hq hrw hqw => ?_⟩
  obtain ⟨i, hi, rfl⟩ := exists_encode_of_admits hr hrw
  obtain ⟨j, hj, rfl⟩ := exists_encode_of_admits hq hqw
  rw [encode_injective (hi.trans hj.symm)]

end Sys2Proof

/-! PROOFS. The invalid words (O5), and words of R84 written out (O6). -/

namespace Sys2Proof

/-! ### The words of R86 are rejected -/

theorem decode8_of_mem {x y : RegIx} {n : Nat} (h : n ∈ [0x8, 0x9, 0xA, 0xB, 0xC, 0xD, 0xF]) :
    decode8 x y n = .error .invalid8xyN := by
  simp only [List.mem_cons, List.not_mem_nil, or_false] at h
  obtain rfl | rfl | rfl | rfl | rfl | rfl | rfl := h <;> rfl

theorem decodeE_of_not_mem {x : RegIx} {nn : Nat} (h : nn ∉ [0x9E, 0xA1]) : decodeE x nn = .error .invalidExNN := by
  unfold decodeE
  split <;> simp_all

theorem decodeF_of_not_mem {x : RegIx} {nn : Nat} (h : nn ∉ [0x07, 0x0A, 0x15, 0x18, 0x1E, 0x29, 0x33, 0x55, 0x65]) :
    decodeF x nn = .error .invalidFxNN := by
  unfold decodeF
  split <;> simp_all

theorem decodeWord_of_lists {r : Reject} {w : Word} (h : r.Lists w) : decodeWord w = .error r := by
  cases r
  case tooFewBytes => exact h.elim
  all_goals
    obtain ⟨hop, hw⟩ := h
    simp only [decodeWord, opField_toNat, nField_toNat, nnField_toNat, nField_eq_zero_iff, hop]
  case invalid0nnn => rw [if_neg hw.1, if_neg hw.2]
  case invalid5xyN | invalid9xyN => exact if_neg hw
  case invalid8xyN => exact decode8_of_mem hw
  case invalidExNN => exact decodeE_of_not_mem hw
  case invalidFxNN => exact decodeF_of_not_mem hw

/-- A word is rejected by a name exactly when R86 lists it under that name. -/
theorem decodeWord_eq_error_iff (w : Word) (r : Reject) : decodeWord w = .error r ↔ r.Lists w := by
  refine ⟨fun h => ?_, decodeWord_of_lists⟩
  have hw := answersFor_decodeWord w
  rwa [h] at hw

/-- Settles O5: the six classes are what `Reject.Lists` says, and it lists no word as too short. -/
theorem invalidWordsAreExactlyTheListedOnes : Obligations.InvalidWordsAreExactlyTheListedOnes := by
  intro w
  have h := decodeWord_eq_error_iff w
  exact ⟨h .invalid0nnn, h .invalid5xyN, h .invalid8xyN, h .invalid9xyN, h .invalidExNN, h .invalidFxNN,
    (h .tooFewBytes).1⟩

/-- Settles O6: each word is the encoding of its instruction. -/
theorem sampleWordsDecode : Obligations.SampleWordsDecode :=
  ⟨decodeWord_encode .cls, decodeWord_encode .ret, decodeWord_encode (.jp 0xABC#12),
    decodeWord_encode (.seImm 0x3#4 0x42#8), decodeWord_encode (.addReg 0xA#4 0xB#4), decodeWord_encode (.ldI 0x300#12),
    decodeWord_encode (.drw 0x1#4 0x2#4 0x5#4), decodeWord_encode (.sknp 0x3#4), decodeWord_encode (.ldBVx 0xA#4)⟩

end Sys2Proof

/-! SUPPORT. The instruction step, one equation per outcome (R100, R103, R107), and what its parts write: taking the event, the
fetch, the completion. -/

namespace Sys2Proof.Machine

variable {s : State}

/-! ### The event that a step takes -/

theorem step_of_instr (hev : s.nextEvent = .instr) : step s = instructionStep s.takeEvent := by
  rw [step, hev]
  rfl

theorem unchangedBut_takeEvent (s : State) : UnchangedBut [.env] s s.takeEvent := by
  intro p hp
  cases p
  case env => exact absurd (List.mem_singleton_self _) hp
  case mem | v => exact fun _ => rfl
  all_goals rfl

/-! ### The fetch and the completion -/

theorem wrap12_add_two_toNat (a : Word) : (wrap12 (a + 2#16)).toNat = (a.toNat + 2) % 0x1000 := by
  rw [wrap12_toNat, BitVec.toNat_add, BitVec.toNat_ofNat]
  omega

theorem writesOnly_fetch (s : State) : WritesOnly [.opcode, .pc] s s.fetch :=
  ⟨fun p hp => by cases p <;> simp_all [Part.Same], fun _ => rfl, rfl⟩

theorem UnchangedBut.mono {ps qs : List Part} {s t : State} (h : UnchangedBut ps s t) (hsub : ps ⊆ qs) : UnchangedBut qs s t :=
  fun p hp => h p fun hm => hp (hsub hm)

/-- A step that took a fatal error stays Stopped (R106). -/
@[simp] theorem State.complete_raise (s : State) (e : FatalError) : (s.raise e).complete = s.raise e := if_neg nofun

theorem completed_eq_mapNext (r : Result) : completed r = mapNext State.complete r := by
  cases r <;> rfl

/-! ### The outcomes of the step -/

/-- Two bytes decode exactly as the word they make, and the bytes after them are left (R91). -/
theorem decode_cons_cons_eq_ok_iff {hi lo : Byte} {rest rest' : List Byte} {i : Instr} :
    decode (hi :: lo :: rest) = .ok (i, rest') ↔ decodeWord (wordOfBytes hi lo) = .ok i ∧ rest = rest' := by
  rw [decode_cons_cons]
  cases decodeWord (wordOfBytes hi lo) <;> simp

theorem instructionStep_ok {i : Instr} (hen : s.enabled = true) (hd : decodeWord s.fetchWord = .ok i) :
    instructionStep s = mapNext State.complete (exec i s.fetch) := by
  rw [instructionStep, if_pos hen, dispatch_ok (s := s.fetch) hd, completed_eq_mapNext]

theorem instructionStep_error {r : Reject} (hen : s.enabled = true) (hd : decodeWord s.fetchWord = .error r) :
    instructionStep s = .next (s.fetch.raise .invalidOpcode) := by
  rw [instructionStep, if_pos hen, dispatch_error (s := s.fetch) hd, completed, State.complete_raise]

theorem instructionStep_disabled (hen : ¬ s.enabled = true) : instructionStep s = .next s := if_neg hen

end Sys2Proof.Machine

/-! PROOFS. The instruction cycle (O7 to O11): what the step is for a word that decodes, for one that does not, and where no step is
enabled. -/

namespace Sys2Proof.Machine

/-! ### Fetch, decode and run (R101 to R103) -/

/-- Settles O8: the latched word is the two bytes; at PC = 0xFFF the address after it wraps to 0x000. -/
theorem fetchLatchesBigEndianWord : Obligations.FetchLatchesBigEndianWord := by
  intro s
  constructor
  · rw [State.fetch_opcode, State.fetchWord_toNat, Nat.mul_comm]
  · intro hpc
    rw [hpc]
    exact s.readByte_eq_of_wrap12_eq (by decide)

/-- Settles O7: the two bytes decode as the fetched word, and the step is the decoding one. -/
theorem stepRunsDecodedInstruction : Obligations.StepRunsDecodedInstruction := by
  intro s i hen hev hd
  obtain ⟨hw, -⟩ := decode_cons_cons_eq_ok_iff.1 hd
  exact ⟨(step_of_instr hev).trans (instructionStep_ok (s := s.takeEvent) hen hw), (writesOnly_fetch s.takeEvent).unchanged,
    wrap12_add_two_toNat s.pc, unchangedBut_takeEvent s, rfl, rfl, rfl⟩

/-- Settles O10: the step is the fetch, then the fatal error. -/
theorem invalidWordTakesInvalidOpcode : Obligations.InvalidWordTakesInvalidOpcode := by
  intro s r hen hev hd
  refine ⟨_, (step_of_instr hev).trans (instructionStep_error (s := s.takeEvent) hen hd), rfl, rfl, rfl,
    wrap12_add_two_toNat s.pc, ?_⟩
  exact ((writesOnly_fetch _).trans (writesOnly_raise _ _)).unchanged.mono (by decide)

/-- Settles O11: in those states the step is not enabled. -/
theorem disabledStepExecutesNothing : Obligations.DisabledStepExecutesNothing := by
  intro s hev hs
  have hen : ¬ s.enabled = true := by
    rw [State.enabled_iff]
    rintro ⟨hrun, hfault⟩
    obtain h | h | h := hs
    · simp [h] at hrun
    · simp [h] at hrun
    · exact h hfault
  exact (step_of_instr hev).trans (instructionStep_disabled (s := s.takeEvent) hen)

/-! ### Completion (R106) -/

section
variable {i : Instr} {s t : State}

theorem fault_mem_footprint_iff : .fault ∈ footprint s i ↔
    (s.sp.val = 0 ∧ i = .ret) ∨ (s.sp.val = 16 ∧ ∃ nnn, i = .call nnn) := by
  have hsp : ¬ s.sp.val < 16 ↔ s.sp.val = 16 := by omega
  cases i <;> simp [footprint, postIndexParts, Part.mem_ite, hsp]

theorem execState_mem_footprint_iff : .execState ∈ footprint s i ↔ .fault ∈ footprint s i := by
  cases i <;> simp [footprint, postIndexParts, Part.mem_ite]

/-- An instruction takes a fatal error and does nothing else, or it leaves FAULT and EXEC (R221, R222). -/
theorem exec_raises_or_keeps_control (h : exec i s = .next t) :
    (∃ e, t = s.raise e) ∨ (t.fault = s.fault ∧ t.execState = s.execState) := by
  by_cases hf : .fault ∈ footprint s i
  · obtain ⟨hsp, rfl⟩ | ⟨hsp, nnn, rfl⟩ := fault_mem_footprint_iff.1 hf
    · obtain ⟨hpos, -⟩ | ⟨-, ht⟩ := exec_ret_next h
      · omega
      · exact .inl ⟨_, ht⟩
    · obtain ⟨hlt, -⟩ | ⟨-, ht⟩ := exec_call_next h
      · omega
      · exact .inl ⟨_, ht⟩
  · have hw := exec_writesOnly h
    exact .inr ⟨hw.unchanged .fault hf, hw.unchanged .execState (execState_mem_footprint_iff.not.2 hf)⟩

end

/-- Settles O9: an instruction that takes a fatal error leaves EXEC Stopped, which completion keeps; any other leaves FAULT None and
EXEC as it was, for completion to change. -/
theorem completionReturnsSteppingToPaused : Obligations.CompletionReturnsSteppingToPaused := by
  intro s i hen hev hd
  obtain ⟨-, hfault⟩ := s.enabled_iff.1 hen
  obtain ⟨u, hu⟩ := exec_answers i s.takeEvent.fetch
  have hstep : step s = .next u.complete := by
    rw [step_of_instr hev, instructionStep_ok (s := s.takeEvent) hen hd, hu]
    rfl
  refine ⟨u.complete, hstep, ?_⟩
  obtain ⟨e, rfl⟩ | ⟨hf, he⟩ := exec_raises_or_keeps_control hu
  · simp
  · have hf' : u.fault = none := hf.trans hfault
    have he' : u.execState = s.execState := he
    simp +contextual [hf', he']

end Sys2Proof.Machine

/-! SUPPORT. Control transfer (41_flow.md): where a jump and a skip leave PC, and the next state of 2nnn and of 00EE by the room on
the stack; first, the words of the formats XB, XYS and XYN with the weight before each field, as the statements write them. -/

namespace Sys2Proof

theorem encXB_toNat_weights (op x : BitVec 4) (nn : Byte) :
    (encXB op x nn).toNat = op.toNat * 4096 + 256 * x.toNat + nn.toNat := by
  rw [encXB_toNat, Nat.mul_comm x.toNat]

theorem encXY_toNat_weights (op x y n : BitVec 4) :
    (encXY op x y n).toNat = op.toNat * 4096 + 256 * x.toNat + 16 * y.toNat + n.toNat := by
  rw [encXY_toNat, Nat.mul_comm x.toNat, Nat.mul_comm y.toNat]

end Sys2Proof

namespace Sys2Proof.Machine

variable {i : Instr} {s : State}

/-- Bnnn's register as a register number (R128). -/
theorem State.jumpOffset_eq_getV (s : State) (nnn : Addr) :
    s.jumpOffset nnn = s.getV (if s.cfg.quirks.jump then BitVec.ofNat 4 (nnn.toNat / 256) else 0x0#4) := by
  have hx : nnn.extractLsb' 8 4 = BitVec.ofNat 4 (nnn.toNat / 256) :=
    BitVec.eq_of_toNat_eq (by simp [Nat.shiftRight_eq_div_pow])
  unfold State.jumpOffset
  split
  · rw [hx]
  · rfl

/-- An address plus a byte, which do not overflow a word before the wrap (R128). -/
theorem wrap12_addrWord_add_byteWord_toNat (nnn : Addr) (b : Byte) :
    (wrap12 (addrWord nnn + byteWord b)).toNat = (nnn.toNat + b.toNat) % 0x1000 := by
  rw [wrap12_toNat, BitVec.toNat_add, addrWord_toNat, byteWord_toNat]
  omega

/-- An instruction that is a skip on a condition moves PC past the next word exactly when the condition holds (R120). -/
theorem answers_of_exec_skipIf {c : Bool} {p : Prop} [Decidable p] (h : exec i s = .next (s.skipIf c)) (hc : c = true ↔ p) :
    Answers i s fun t => t.pc.toNat = (if p then (s.pc.toNat + 2) % 0x1000 else s.pc.toNat) ∧ UnchangedBut [.pc] s t := by
  refine ⟨_, h, ?_, (writesOnly_skipIf s c).unchanged⟩
  rw [s.skipIf_pc_toNat]
  simp only [hc]

theorem takesError_raise (s : State) (e : FatalError) : TakesError e s (s.raise e) :=
  ⟨rfl, rfl, (writesOnly_raise s e).unchanged⟩

theorem exec_call_of_lt {nnn : Addr} (h : s.sp.val < 16) :
    exec (.call nnn) s = .next ((s.push s.pc h).setPc (addrWord nnn)) := dif_pos h

theorem exec_call_of_full {nnn : Addr} (h : s.sp.val = 16) : exec (.call nnn) s = .next (s.raise .stackOverflow) :=
  dif_neg (by omega)

theorem exec_ret_of_pos (h : 0 < s.sp.val) : exec .ret s = .next (s.pop.setPc (s.top h)) := dif_pos h

theorem exec_ret_of_empty (h : s.sp.val = 0) : exec .ret s = .next (s.raise .stackUnderflow) := dif_neg (by omega)

end Sys2Proof.Machine

/-! PROOFS. Control transfer and skips (O13 to O19), and the two instructions that take a fatal error (O53). -/

namespace Sys2Proof.Machine

/-! ### Jumps (R122, R128) -/

/-- Settles O13: a 12-bit address needs no wrap. -/
theorem jpSetsPc : Obligations.JpSetsPc := by
  intro nnn s
  refine ⟨encA_toNat 0x1#4 nnn, _, rfl, ?_, (writesOnly_setPc s _).unchanged⟩
  rw [State.setPc_pc, wrap12_addrWord, addrWord_toNat]

/-- Settles O19: the register is the one JumpQuirk chooses, and the sum is wrapped once. -/
theorem jpV0AddsRegister : Obligations.JpV0AddsRegister := by
  intro nnn s
  refine ⟨encA_toNat 0xB#4 nnn, _, rfl, ?_, (writesOnly_setPc s _).unchanged⟩
  rw [State.setPc_pc, wrap12_addrWord_add_byteWord_toNat, State.jumpOffset_eq_getV]

/-! ### The stack (R121, R123) -/

/-- Settles O14: with room the slot at SP is set and no other; a full stack takes the error. -/
theorem callPushesOrOverflows : Obligations.CallPushesOrOverflows := by
  intro nnn s
  refine ⟨fun h => ⟨_, exec_call_of_lt h, ?_, fun k hk => ?_, rfl, ?_, ?_⟩,
    fun h => ⟨_, exec_call_of_full h, takesError_raise s _⟩⟩
  · exact Vector.getElem_set_self h
  · exact Vector.getElem_set_ne h k.isLt hk.symm
  · rw [State.setPc_pc, wrap12_addrWord, addrWord_toNat]
  · exact ((writesOnly_push s _ h).trans (writesOnly_setPc _ _)).unchanged

/-- Settles O15: with a slot occupied SP and PC are written and the stack is not; an empty stack takes the error. -/
theorem retPopsOrUnderflows : Obligations.RetPopsOrUnderflows := by
  intro s
  refine ⟨fun h => ⟨_, exec_ret_of_pos h, rfl, rfl, ?_⟩, fun h => ⟨_, exec_ret_of_empty h, takesError_raise s _⟩⟩
  exact ((writesOnly_pop s).trans (writesOnly_setPc _ _)).unchanged

/-- Settles O16: the slot that the return pops is the one that the call set (O14, O15). -/
theorem returnGoesBackToCaller : Obligations.ReturnGoesBackToCaller := by
  intro nnn s t u hroom hcall hstack hsp
  obtain ⟨t', ht', hslot, -, hpush, -⟩ := (callPushesOrOverflows nnn s).1 hroom
  obtain rfl : t = t' := Host.Outcome.next.inj (hcall.symm.trans ht')
  have hu : u.sp.val = s.sp.val + 1 := by rw [hsp, hpush]
  obtain ⟨r, hr, hpop, hpc, -⟩ := (retPopsOrUnderflows u).1 (by omega)
  have htop : u.stack[u.sp.val - 1] = s.pc := by simp only [hu, Nat.add_sub_cancel, hstack, hslot]
  exact ⟨r, hr, by rw [hpc, htop], Fin.ext (by omega)⟩

/-! ### Skips (R120, R124 to R127) -/

/-- Settles O17: both are skips on a comparison of V[x] with nn. -/
theorem immediateSkips : Obligations.ImmediateSkips := fun x nn _ =>
  ⟨encXB_toNat_weights 0x3#4 x nn, encXB_toNat_weights 0x4#4 x nn,
    answers_of_exec_skipIf rfl beq_iff_eq, answers_of_exec_skipIf rfl bne_iff_ne⟩

/-- Settles O18: both are skips on a comparison of V[x] with V[y]. -/
theorem registerSkips : Obligations.RegisterSkips := fun x y _ =>
  ⟨encXY_toNat_weights 0x5#4 x y 0x0#4, encXY_toNat_weights 0x9#4 x y 0x0#4,
    answers_of_exec_skipIf rfl beq_iff_eq, answers_of_exec_skipIf rfl bne_iff_ne⟩

/-! ### Which instructions take a fatal error (R221) -/

/-- Settles O53: FAULT and EXEC stand in a footprint together, and only in those of the two stack errors. -/
theorem onlyCallAndRetRaise : Obligations.OnlyCallAndRetRaise := by
  intro i s t h hne
  have hw := exec_writesOnly h
  have hmem : .fault ∈ footprint s i := by
    obtain hf | he := hne
    · exact hw.mem_of_not_same hf
    · exact execState_mem_footprint_iff.1 (hw.mem_of_not_same he)
  obtain ⟨hsp, rfl⟩ | ⟨hsp, nnn, rfl⟩ := fault_mem_footprint_iff.1 hmem
  · exact .inr ⟨rfl, hsp⟩
  · exact .inl ⟨nnn, rfl, hsp⟩

end Sys2Proof.Machine

/-! SUPPORT. Register loads and the ALU (42_alu.md): the results and the flags as numbers, and what an instruction answers that
writes V[x] alone, V[x] and then a flag, or V[x] and then VF = 0 under LogicQuirk. -/

namespace Sys2Proof

/-- A word with its fixed digits, op and n, before its registers, as the statements of the ALU write it (R82). -/
theorem encXY_toNat_digits_first (op x y n : BitVec 4) :
    (encXY op x y n).toNat = op.toNat * 4096 + n.toNat + 256 * x.toNat + 16 * y.toNat := by
  rw [encXY_toNat_weights]
  omega

end Sys2Proof

namespace Sys2Proof.Machine

/-! ### Results and flags (R140, R148 to R153) -/

section
variable (a b v : Byte)

/-- The sum is exact before it is reduced (R148). -/
theorem addCarry_fst_toNat : (addCarry a b).1.toNat = (a.toNat + b.toNat) % 256 := by
  rw [addCarry_fst, BitVec.toNat_add]

/-- The difference is exact, and may be negative, before it is reduced (R149, R152). -/
theorem subNoBorrow_fst_toNat : ((subNoBorrow a b).1.toNat : Int) = ((a.toNat : Int) - b.toNat) % 256 := by
  rw [subNoBorrow_fst, BitVec.toNat_sub]
  omega

theorem shiftRight1_fst_toNat : (shiftRight1 v).1.toNat = v.toNat / 2 := by
  rw [shiftRight1_fst, BitVec.toNat_ushiftRight, Nat.shiftRight_eq_div_pow, Nat.pow_one]

theorem shiftLeft1_fst_toNat : (shiftLeft1 v).1.toNat = 2 * v.toNat % 256 := by
  rw [shiftLeft1_fst, BitVec.toNat_shiftLeft, Nat.shiftLeft_eq, Nat.pow_one, Nat.mul_comm]

theorem flagOf_decide (p : Prop) [Decidable p] : flagOf (decide p) = if p then 0x01#8 else 0x00#8 := by
  by_cases h : p <;> simp [h]

theorem flagOf_toNat (c : Bool) : (flagOf c).toNat = c.toNat := by
  cases c <;> rfl

/-- Bit 0 is the remainder of the halving (R151). -/
theorem shiftRight1_snd_toNat : (shiftRight1 v).2.toNat = v.toNat % 2 := by
  rw [shiftRight1_snd, flagOf_toNat, BitVec.getLsbD, Nat.toNat_testBit, Nat.pow_zero, Nat.div_one]

/-- Bit 7 is the top one, so that nothing stands above it (R153). -/
theorem shiftLeft1_snd_toNat : (shiftLeft1 v).2.toNat = v.toNat / 128 := by
  rw [shiftLeft1_snd, flagOf_toNat, BitVec.getLsbD, Nat.toNat_testBit]
  omega

end

/-! ### Operands under a quirk -/

/-- The value that is shifted, as the register that ShiftQuirk chooses (R150). -/
theorem State.shiftSource_eq_getV (s : State) (x y : RegIx) :
    s.shiftSource x y = s.getV (if s.cfg.quirks.shift then x else y) := by
  unfold State.shiftSource
  split <;> rfl

theorem State.random_of_cons {s : State} {r : Byte} {rest : List Byte} (h : s.rnd = r :: rest) : s.random = r := by
  simp [State.random, h]

theorem State.random_of_nil {s : State} (h : s.rnd = []) : s.random = Config.randomByte s.draws := by
  simp [State.random, h]

theorem State.getV_logicQuirk (s : State) (r : RegIx) :
    s.logicQuirk.getV r = if s.cfg.quirks.logic = true ∧ r = vfIx then 0x00#8 else s.getV r := by
  unfold State.logicQuirk
  split <;> simp [State.getV_setV, *]

/-! ### What an instruction answers, by what it writes -/

section
variable {i : Instr} {s : State} {x : RegIx} {b f : Byte} {P Q : Byte → Prop}

/-- An instruction that sets V[x] and does nothing else, whatever is said of the value. -/
theorem answers_of_exec_setV (h : exec i s = .next (s.setV x b)) (hb : P b) :
    Answers i s fun t => P (t.getV x) ∧ RegsUnchangedBut [x] s t ∧ UnchangedBut [.v] s t := by
  refine ⟨_, h, ?_, regsUnchangedBut_setV s x b, (writesOnly_setV s x b).unchanged⟩
  rwa [State.getV_setV_self]

/-- An instruction that sets V[x] and then VF as its flag, whatever is said of the two values: VF holds the flag even when it is
the destination (R105). -/
theorem answers_of_exec_setVThenFlag (h : exec i s = .next (s.setVThenFlag x b f)) (hb : P b) (hf : Q f) :
    Answers i s fun t => (x ≠ vfIx → P (t.getV x)) ∧ Q (t.getV vfIx) ∧ RegsUnchangedBut [x, vfIx] s t ∧
      UnchangedBut [.v] s t := by
  refine ⟨_, h, fun hx => ?_, ?_, regsUnchangedBut_setVThenFlag s x b f, (writesOnly_setVThenFlag s x b f).unchanged⟩
  · rwa [State.getV_setVThenFlag_self s b f hx]
  · rwa [State.getV_setVThenFlag_vf]

/-- An instruction that sets V[x] and then clears VF under LogicQuirk, whatever is said of the value, which VF as the destination
keeps only without the quirk (R147). -/
theorem answers_of_exec_logicQuirk (h : exec i s = .next (s.setV x b).logicQuirk) (hb : P b) :
    Answers i s fun t => ((s.cfg.quirks.logic = false ∨ x ≠ vfIx) → P (t.getV x)) ∧
      (s.cfg.quirks.logic = true → t.getV vfIx = 0x00#8) ∧
      RegsUnchangedBut (if s.cfg.quirks.logic then [x, vfIx] else [x]) s t ∧ UnchangedBut [.v] s t := by
  refine ⟨_, h, fun hkept => ?_, fun hq => ?_, ?_, (writesOnly_setV_logicQuirk s x b).unchanged⟩
  · have hn : ¬ (s.cfg.quirks.logic = true ∧ x = vfIx) := by rwa [not_and_or, Bool.not_eq_true]
    rwa [State.getV_logicQuirk, State.setV_cfg, if_neg hn, State.getV_setV_self]
  · rw [State.getV_logicQuirk, State.setV_cfg, if_pos ⟨hq, rfl⟩]
  · have hregs := (regsUnchangedBut_setV s x b).trans (regsUnchangedBut_logicQuirk (s.setV x b))
    rw [logicQuirkRegs, State.setV_cfg] at hregs
    split <;> simpa [*] using hregs

/-- Cxnn in every state: the byte the random source gives, masked, and that byte taken (R154, R248). -/
theorem answers_rnd (x : RegIx) (nn : Byte) (s : State) :
    Answers (.rnd x nn) s fun t =>
      t.getV x = s.random &&& nn ∧ t.rnd = s.rnd.tail ∧ t.draws = (if s.rnd.isEmpty then s.draws + 1 else s.draws) ∧
        t.inputs = s.inputs ∧ RegsUnchangedBut [x] s t ∧ UnchangedBut [.v, .env] s t := by
  have h : exec (.rnd x nn) s = .next (s.takeRandom.setV x (s.random &&& nn)) := rfl
  exact ⟨_, h, State.getV_setV_self _ _ _, s.takeRandom_rnd, s.takeRandom_draws, s.takeRandom_inputs,
    exec_regsUnchangedBut h, (exec_writesOnly h).unchanged.mono (List.Perm.swap _ _ _).subset⟩

end

end Sys2Proof.Machine

/-! PROOFS. Register loads and the ALU (O20 to O25). -/

namespace Sys2Proof.Machine

/-- Settles O21: the three instructions differ in the bitwise operation alone. -/
theorem logicOperations : Obligations.LogicOperations := by
  intro x y s
  refine ⟨encXY_toNat_digits_first 0x8#4 x y 0x1#4, encXY_toNat_digits_first 0x8#4 x y 0x2#4,
    encXY_toNat_digits_first 0x8#4 x y 0x3#4, ?_, ?_, ?_⟩
  · exact answers_of_exec_logicQuirk (P := fun r => ∀ k < 8, r.getLsbD k = ((s.getV x).getLsbD k || (s.getV y).getLsbD k))
      rfl fun _ _ => BitVec.getLsbD_or
  · exact answers_of_exec_logicQuirk (P := fun r => ∀ k < 8, r.getLsbD k = ((s.getV x).getLsbD k && (s.getV y).getLsbD k))
      rfl fun _ _ => BitVec.getLsbD_and
  · exact answers_of_exec_logicQuirk (P := fun r => ∀ k < 8, r.getLsbD k = ((s.getV x).getLsbD k ^^ (s.getV y).getLsbD k))
      rfl fun _ _ => BitVec.getLsbD_xor

/-- Settles O22: the result is the exact sum reduced, and the flag compares the exact sum with 255. -/
theorem addSetsCarry : Obligations.AddSetsCarry := fun x y _ =>
  ⟨encXY_toNat_digits_first 0x8#4 x y 0x4#4,
    answers_of_exec_setVThenFlag (P := fun r => r.toNat = _) (Q := fun f => f = _) rfl
      (addCarry_fst_toNat _ _) (flagOf_decide _)⟩

/-- Settles O23: 8xy7 is 8xy5 with the operands exchanged. -/
theorem subtractSetsNoBorrow : Obligations.SubtractSetsNoBorrow := fun x y _ =>
  ⟨encXY_toNat_digits_first 0x8#4 x y 0x5#4, encXY_toNat_digits_first 0x8#4 x y 0x7#4,
    answers_of_exec_setVThenFlag (P := fun r => (r.toNat : Int) = _) (Q := fun f => f = _) rfl
      (subNoBorrow_fst_toNat _ _) (flagOf_decide _),
    answers_of_exec_setVThenFlag (P := fun r => (r.toNat : Int) = _) (Q := fun f => f = _) rfl
      (subNoBorrow_fst_toNat _ _) (flagOf_decide _)⟩

/-- Settles O24: both shift the value of the register that ShiftQuirk chooses, and take the flag from that same value. -/
theorem shiftsMoveOutTheFlag : Obligations.ShiftsMoveOutTheFlag := by
  intro x y s v
  have hv : (s.shiftSource x y).toNat = v := by rw [State.shiftSource_eq_getV]
  refine ⟨encXY_toNat_digits_first 0x8#4 x y 0x6#4, encXY_toNat_digits_first 0x8#4 x y 0xE#4, ?_, ?_⟩
  · exact answers_of_exec_setVThenFlag (P := fun r => r.toNat = v / 2) (Q := fun f => f.toNat = v % 2) rfl
      (hv ▸ shiftRight1_fst_toNat _) (hv ▸ shiftRight1_snd_toNat _)
  · exact answers_of_exec_setVThenFlag (P := fun r => r.toNat = 2 * v % 256) (Q := fun f => f.toNat = v / 128) rfl
      (hv ▸ shiftLeft1_fst_toNat _) (hv ▸ shiftLeft1_snd_toNat _)

/-- Settles O25: a byte supplied is the one given and taken; with none supplied the free value is given and one draw counted. -/
theorem randomByteIsMasked : Obligations.RandomByteIsMasked := by
  intro x nn s
  refine ⟨fun r rest hr => ?_, fun hr => ?_⟩
  · simpa [hr, State.random_of_cons hr] using answers_rnd x nn s
  · simpa [hr, State.random_of_nil hr] using answers_rnd x nn s

/-- Settles O20: each sets V[x] and nothing else; 7xnn takes the sum without its carry. -/
theorem loadsAndAddImmediate : Obligations.LoadsAndAddImmediate := fun x y nn _ =>
  ⟨encXB_toNat_weights 0x6#4 x nn, encXB_toNat_weights 0x7#4 x nn, encXY_toNat_weights 0x8#4 x y 0x0#4,
    answers_of_exec_setV (P := fun r => r = _) rfl rfl,
    answers_of_exec_setV (P := fun r => r.toNat = _) rfl (addCarry_fst_toNat _ _),
    answers_of_exec_setV (P := fun r => r = _) rfl rfl⟩

end Sys2Proof.Machine

/-! SUPPORT. The index register and memory transfers (43_index_memory.md): addresses as numbers, what an instruction answers that
sets I alone, and what a run of writes and the post-index leave unchanged; first, the format XB with its fixed digits before x. -/

namespace Sys2Proof

/-- A word with its fixed digits, op and nn, before its register, as the statements of the memory transfers write it (R82). -/
theorem encXB_toNat_digits_first (op x : BitVec 4) (nn : Byte) :
    (encXB op x nn).toNat = op.toNat * 4096 + nn.toNat + 256 * x.toNat := by
  rw [encXB_toNat_weights]
  omega

end Sys2Proof

namespace Sys2Proof.Machine

/-! ### Addresses (R170, R172 to R174) -/

/-- The sum does not need to fit a word: 4096 divides the size of a word (R172). -/
theorem wrap12_add_byteWord_toNat (a : Word) (b : Byte) : (wrap12 (a + byteWord b)).toNat = (a.toNat + b.toNat) % 0x1000 := by
  rw [wrap12_toNat, BitVec.toNat_add, byteWord_toNat]
  omega

/-- The address after V0..Vx (R175, R176). -/
theorem wrap12_add_succ_toNat (a : Word) (x : RegIx) :
    (wrap12 (a + BitVec.ofNat 16 (x.toNat + 1))).toNat = (a.toNat + x.toNat + 1) % 0x1000 := by
  rw [wrap12_toNat, BitVec.toNat_add, BitVec.toNat_ofNat]
  omega

theorem wrap12_glyphAddr (b : Byte) : wrap12 (glyphAddr b) = glyphAddr b :=
  wrap12_of_lt (by rw [glyphAddr_toNat]; omega)

/-- No digit exceeds a byte (R174). -/
theorem map_toNat_bcdDigits (b : Byte) : (bcdDigits b).map BitVec.toNat = [b.toNat / 100, b.toNat / 10 % 10, b.toNat % 10] := by
  have hdigit : ∀ n, n < 256 → (BitVec.ofNat 8 n).toNat = n := fun n hn => Nat.mod_eq_of_lt hn
  simp only [bcdDigits, List.map_cons, List.map_nil]
  rw [hdigit _ (by omega), hdigit _ (by omega), hdigit _ (by omega)]

/-- Fx33's run of writes, read back at each of its three addresses (R174). -/
theorem State.readByte_writeBytes_bcdDigits {s : State} {a : Word} {b : Byte} {k : Nat}
    (hw : Memory.wf s.cfg.font s.mem = true) (hk : k < 3) :
    ((s.writeBytes a (bcdDigits b)).readByte (a + BitVec.ofNat 16 k)).toNat =
      [b.toNat / 100, b.toNat / 10 % 10, b.toNat % 10][k] := by
  have hlen : (bcdDigits b).length = 3 := rfl
  rw [s.readByte_writeBytes a (bcdDigits b) (by omega) hw k (by omega), ← List.getElem_map BitVec.toNat (h := by simpa)]
  simp only [map_toNat_bcdDigits]

/-! ### Frames -/

theorem postIndexParts_subset (q : Quirks) : postIndexParts q ⊆ [.i] := by
  unfold postIndexParts
  split <;> simp

section
variable {i : Instr} {s : State} {a : Word}

/-- An instruction that sets I and does nothing else, for the number that the wrapped address is. -/
theorem answers_of_exec_setI {n : Nat} (h : exec i s = .next (s.setI a)) (ha : (wrap12 a).toNat = n) :
    Answers i s fun t => t.i.toNat = n ∧ UnchangedBut [.i] s t :=
  ⟨_, h, ha, (writesOnly_setI s a).unchanged⟩

theorem memUnchangedOutside_writeBytes {bs : List Byte} {n : Nat} (hn : bs.length = n) :
    MemUnchangedOutside a n s (s.writeBytes a bs) :=
  fun c hc => s.readByte_writeBytes_outside a c bs (hn ▸ hc)

theorem MemUnchangedOutside.postIndex {n : Nat} {t : State} (h : MemUnchangedOutside a n s t) (a' : Word) (x : RegIx) :
    MemUnchangedOutside a n s (t.postIndex a' x) :=
  fun c hc => (t.readByte_postIndex a' x c).trans (h c hc)

end

end Sys2Proof.Machine

/-! PROOFS. The index register and memory transfers (O26 to O31). -/

namespace Sys2Proof.Machine

/-! ### Writes of I alone (R171 to R173) -/

/-- Settles O26: a 12-bit address needs no wrap. -/
theorem ldISetsIndex : Obligations.LdISetsIndex := by
  intro nnn s
  refine ⟨encA_toNat 0xA#4 nnn, answers_of_exec_setI rfl ?_⟩
  rw [wrap12_addrWord, addrWord_toNat]

/-- Settles O27: the sum is wrapped once, and the glyph address, at most 0x50 + 5 * 255, needs no wrap. -/
theorem addToIndexAndGlyph : Obligations.AddToIndexAndGlyph := by
  intro x s
  refine ⟨answers_of_exec_setI rfl (wrap12_add_byteWord_toNat _ _), answers_of_exec_setI rfl ?_⟩
  rw [wrap12_glyphAddr, glyphAddr_toNat]

/-! ### Transfers (R174 to R176) -/

/-- Settles O28: each digit is read back at its own place in the run of three writes. -/
theorem bcdStoresDigits : Obligations.BcdStoresDigits := by
  intro x s
  refine ⟨encXB_toNat_digits_first 0xF#4 x 0x33#8, _, rfl, fun hw => ?_, memUnchangedOutside_writeBytes rfl,
    (writesOnly_writeBytes s _ _).unchanged⟩
  have hread (k : Nat) (hk : k < 3) := State.readByte_writeBytes_bcdDigits (a := s.i) (b := s.getV x) hw hk
  have hhundreds := hread 0 (by decide)
  rw [BitVec.add_zero] at hhundreds
  exact ⟨hhundreds, hread 1 (by decide), hread 2 (by decide)⟩

/-- Settles O29: each register is read back at its own place in the run of x + 1 writes, and the post-index leaves memory. -/
theorem storeRegistersToMemory : Obligations.StoreRegistersToMemory := by
  intro x s
  have hexec : exec (.ldMemVx x) s = .next ((s.writeBytes s.i (s.regsUpTo x)).postIndex s.i x) := rfl
  refine ⟨encXB_toNat_digits_first 0xF#4 x 0x55#8, _, hexec, fun hw r hr => ?_, ?_, ?_, ?_⟩
  · rw [State.readByte_postIndex, State.readByte_writeBytes_regsUpTo hw hr rfl, BitVec.ofNat_toNat, BitVec.setWidth_eq]
  · exact (memUnchangedOutside_writeBytes (s.length_regsUpTo x)).postIndex _ _
  · rw [State.postIndex_i, State.writeBytes_cfg, State.writeBytes_i]
  · exact (exec_writesOnly hexec).unchanged.mono (List.cons_subset_cons _ (postIndexParts_subset s.cfg.quirks))

/-- Settles O30: the load writes V0..Vx alone, and the post-index leaves the registers. -/
theorem loadRegistersFromMemory : Obligations.LoadRegistersFromMemory := by
  intro x s
  have hexec : exec (.ldVxMem x) s = .next ((s.loadRegs s.i x).postIndex s.i x) := rfl
  refine ⟨encXB_toNat_digits_first 0xF#4 x 0x65#8, _, hexec, fun r hr => ?_, fun r hr => ?_, ?_, ?_⟩
  · rw [State.getV_postIndex, State.getV_loadRegs, if_pos hr]
  · rw [State.getV_postIndex, State.getV_loadRegs, if_neg (by omega)]
  · rw [State.postIndex_i, State.loadRegs_cfg, State.loadRegs_i]
  · exact (exec_writesOnly hexec).unchanged.mono (List.cons_subset_cons _ (postIndexParts_subset s.cfg.quirks))

/-- Settles O31: the load reads from the same I what the store left there (O29, O30). -/
theorem storeThenLoadRoundTrip : Obligations.StoreThenLoadRoundTrip := by
  intro x s t u hw hstore hmem hcfg hi
  obtain ⟨-, t', ht', hstored, -⟩ := storeRegistersToMemory x s
  obtain rfl : t = t' := Host.Outcome.next.inj (hstore.symm.trans ht')
  obtain ⟨-, w, hload, hloaded, -, hindex, -⟩ := loadRegistersFromMemory x u
  rw [hcfg, exec_cfg hstore, hi] at hindex
  refine ⟨w, hload, fun r hr => ?_, fun hq => ?_, fun hq => ?_⟩
  · rw [hloaded r hr, hi, State.readByte_congr hmem hcfg, hstored hw r hr]
  · simpa [hq] using hindex
  · rw [hindex, if_pos hq, wrap12_add_succ_toNat]

end Sys2Proof.Machine

/-! SUPPORT. Where the bits of a drawn sprite lie, and what Dxyn answers (R191, R192): the draw, in the terms of its statements. -/

namespace Sys2Proof.Machine

/-! ### Where the sprite's bits lie -/

section
variable (s : State) (x y : RegIx) (n : Nibble)

theorem State.getD_readBytes (a : Word) (m k : Nat) :
    (s.readBytes a m).getD k 0x00#8 = if k < m then s.readByte (a + BitVec.ofNat 16 k) else 0x00#8 := by
  rw [List.getD_eq_getElem?_getD]
  split
  case isTrue hk => rw [List.getElem?_eq_getElem (by simpa), Option.getD_some, State.getElem_readBytes]
  case isFalse hk => rw [List.getElem?_eq_none (by simpa using hk), Option.getD_none]

/-- The sprite's bit over a cell, by the cell's line and column within the sprite. -/
theorem State.spriteOver_eq (row col : Nat) :
    s.spriteOver x y n row col =
      (decide (spriteLine ((s.getV y).toNat % 32) row < n.toNat) && decide (spriteCol ((s.getV x).toNat % 64) col < 8) &&
        (s.readByte (s.i + BitVec.ofNat 16 (spriteLine ((s.getV y).toNat % 32) row))).getLsbD
          (7 - spriteCol ((s.getV x).toNat % 64) col)) := by
  simp only [State.spriteOver, spriteLine, spriteCol, Nat.mod_mod]

/-- The sprite that the draw runs over the cells is the one that `State.spriteOver` locates. -/
theorem State.spriteBit_readBytes (row col : Nat) :
    spriteBit ((s.getV x).toNat % 64) ((s.getV y).toNat % 32) (s.readBytes s.i n.toNat) row col = s.spriteOver x y n row col := by
  rw [spriteBit, State.getD_readBytes, State.spriteOver_eq]
  split
  case isTrue hr => simp [hr]
  case isFalse hr => simp [hr]

/-- To look for a cell under a set bit is to look for a set bit: bit 7 - k of the j-th byte lies over the cell j rows below and k
columns to the right of (V[x], V[y]), each axis wrapped (R191, R192). -/
theorem State.exists_cell_and_spriteOver_iff (P : Nat → Nat → Prop) :
    (∃ row < 32, ∃ col < 64, P row col ∧ s.spriteOver x y n row col = true) ↔
      ∃ j k, j < n.toNat ∧ k < 8 ∧ (s.readByte (s.i + BitVec.ofNat 16 j)).getLsbD (7 - k) = true ∧
        P (((s.getV y).toNat % 32 + j) % 32) (((s.getV x).toNat % 64 + k) % 64) := by
  simp only [State.spriteOver_eq, Bool.and_eq_true, decide_eq_true_eq]
  generalize (s.getV y).toNat % 32 = y0
  generalize (s.getV x).toNat % 64 = x0
  constructor
  · rintro ⟨row, hrow, col, hcol, hP, ⟨hline, hk⟩, hbit⟩
    refine ⟨_, _, hline, hk, hbit, ?_⟩
    rwa [← (spriteLine_eq_iff y0 row _ (by omega)).1 rfl, ← (spriteCol_eq_iff x0 col _ (by omega)).1 rfl,
      Nat.mod_eq_of_lt hrow, Nat.mod_eq_of_lt hcol]
  · rintro ⟨j, k, hj, hk, hbit, hP⟩
    have hline := (spriteLine_eq_iff y0 ((y0 + j) % 32) j (by omega)).2 (Nat.mod_mod _ _)
    have hcol := (spriteCol_eq_iff x0 ((x0 + k) % 64) k (by omega)).2 (Nat.mod_mod _ _)
    refine ⟨_, Nat.mod_lt _ (by decide), _, Nat.mod_lt _ (by decide), hP, ?_⟩
    rw [hline, hcol]
    exact ⟨⟨hj, hk⟩, hbit⟩

theorem byte_ne_zero_iff (b : Byte) : b ≠ 0x00#8 ↔ ∃ k < 8, b.getLsbD (7 - k) = true := by
  constructor
  · contrapose!
    intro h
    refine BitVec.eq_of_getLsbD_eq fun k hk => ?_
    have := h (7 - k) (by omega)
    rw [show 7 - (7 - k) = k by omega] at this
    simpa using this
  · rintro ⟨k, -, hk⟩ rfl
    simp at hk

/-- A sprite lies over some cell exactly when it has a set bit at all (R191). -/
theorem State.exists_spriteOver_iff :
    (∃ row < 32, ∃ col < 64, s.spriteOver x y n row col = true) ↔
      ∃ r, r < n.toNat ∧ s.readByte (s.i + BitVec.ofNat 16 r) ≠ 0x00#8 := by
  simpa [byte_ne_zero_iff] using s.exists_cell_and_spriteOver_iff x y n fun _ _ => True

theorem State.spriteOver_congr {s u : State} {x y : RegIx} (hx : u.getV x = s.getV x) (hy : u.getV y = s.getV y) (hi : u.i = s.i)
    (hm : ∀ a, u.readByte a = s.readByte a) (n : Nibble) (row col : Nat) :
    u.spriteOver x y n row col = s.spriteOver x y n row col := by
  simp only [State.spriteOver, hx, hy, hi, hm]

/-! ### What the draw does -/

/-- Every cell becomes its old value XOR the sprite's bit over it (R191). -/
theorem State.cell_draw (row col : Nat) :
    (s.draw x y n).frame.cell row col = (s.fb.cell row col ^^ s.spriteOver x y n row col) := by
  rw [State.draw, Raster.cell_sprite _ _ _ _ _ _ (by rw [State.length_readBytes]; omega), State.spriteBit_readBytes]

theorem Frame.cell_mod (f : Frame) (row col : Nat) : f.cell (row % 32) (col % 64) = f.cell row col := by
  simp only [Frame.cell, Nat.mod_mod]

/-- The draw hits exactly when the sprite has a set bit over a cell that is 1 (R191). -/
theorem State.hit_draw_iff :
    (s.draw x y n).hit = true ↔ ∃ row < 32, ∃ col < 64, s.fb.cell row col = true ∧ s.spriteOver x y n row col = true := by
  rw [State.draw, Raster.hit_sprite _ _ _ _ (by rw [State.length_readBytes]; omega),
    s.exists_cell_and_spriteOver_iff x y n fun row col => s.fb.cell row col = true]
  simp only [State.length_readBytes, State.getD_readBytes, Frame.cell_mod, Bool.false_eq_true, false_or]
  refine exists_congr fun j => exists_congr fun k => and_congr_right fun hj => ?_
  rw [if_pos hj]

end

section
variable {s t : State} {x y : RegIx} {n : Nibble}

/-! ### What Dxyn answers -/

theorem exec_drw_next (h : exec (.drw x y n) s = .next t) :
    t.fb = (s.draw x y n).frame ∧ t.getV vfIx = flagOf (s.draw x y n).hit := by
  cases h
  simp

theorem cell_of_exec_drw (h : exec (.drw x y n) s = .next t) (row col : Nat) :
    t.fb.cell row col = (s.fb.cell row col ^^ s.spriteOver x y n row col) := by
  rw [(exec_drw_next h).1, State.cell_draw]

theorem flagOf_eq_one_iff (c : Bool) : flagOf c = 0x01#8 ↔ c = true := by
  cases c <;> decide

theorem flagOf_eq_zero_iff (c : Bool) : flagOf c = 0x00#8 ↔ ¬ c = true := by
  cases c <;> decide

/-- VF is a flag, and it is the collision (R191). -/
theorem vf_of_exec_drw (h : exec (.drw x y n) s = .next t) :
    (t.getV vfIx = 0x01#8 ↔ ∃ row < 32, ∃ col < 64, s.fb.cell row col = true ∧ s.spriteOver x y n row col = true) ∧
    (t.getV vfIx = 0x00#8 ↔ ¬ ∃ row < 32, ∃ col < 64, s.fb.cell row col = true ∧ s.spriteOver x y n row col = true) := by
  rw [(exec_drw_next h).2, flagOf_eq_one_iff, flagOf_eq_zero_iff, State.hit_draw_iff]
  exact ⟨.rfl, .rfl⟩

/-- A cell goes from 1 to 0 exactly when it was 1 under a set bit of the sprite. -/
theorem cell_cleared_by_drw_iff (h : exec (.drw x y n) s = .next t) (row col : Nat) :
    s.fb.cell row col = true ∧ t.fb.cell row col = false ↔ s.fb.cell row col = true ∧ s.spriteOver x y n row col = true := by
  rw [cell_of_exec_drw h]
  refine and_congr_right fun hc => ?_
  rw [hc, Bool.true_xor, Bool.not_eq_false']

end

end Sys2Proof.Machine

/-! PROOFS. The framebuffer (O32 to O34) and the output events of instructions (O35). -/

namespace Sys2Proof.Machine

/-- Settles O32: the framebuffer is the clear one, and the footprint of 00E0 is the framebuffer and the outputs. -/
theorem clsClearsEveryCell : Obligations.ClsClearsEveryCell := fun _ =>
  ⟨rfl, _, rfl, fun _ _ _ _ => Frame.cell_clear _ _, (exec_writesOnly (i := .cls) rfl).unchanged, rfl⟩

/-- Settles O33: the collision of the draw is a cell that goes from 1 to 0. -/
theorem drawXorsSprite : Obligations.DrawXorsSprite := by
  intro x y n s
  obtain ⟨t, h⟩ := exec_answers (.drw x y n) s
  obtain ⟨hone, hzero⟩ := vf_of_exec_drw h
  simp only [← cell_cleared_by_drw_iff h] at hone hzero
  exact ⟨t, h, fun row _ col _ => cell_of_exec_drw h row col, hone.2, hzero.2, exec_regsUnchangedBut h,
    (exec_writesOnly h).unchanged⟩

/-- A toggled cell that is 1 under a set bit was 0 before. -/
theorem xor_eq_true_and_iff (c b : Bool) : (c ^^ b) = true ∧ b = true ↔ b = true ∧ c = false := by
  cases b <;> simp

/-- Settles O34: both draws XOR the same bits, and a cell under a set bit is 1 before the second draw when it was 0 before the
first. -/
theorem drawingTwiceRestores : Obligations.DrawingTwiceRestores := by
  intro x y n s t u hst hfb hx hy hi hm
  obtain ⟨w, huw⟩ := exec_answers (.drw x y n) u
  have hover := State.spriteOver_congr hx hy hi hm n
  have hcell (row col : Nat) : u.fb.cell row col = (s.fb.cell row col ^^ s.spriteOver x y n row col) := by
    rw [hfb, cell_of_exec_drw hst]
  have hvf : w.getV vfIx = 0x01#8 ↔
      ∃ row < 32, ∃ col < 64, s.spriteOver x y n row col = true ∧ s.fb.cell row col = false := by
    rw [(vf_of_exec_drw huw).1]
    simp only [hover, hcell, xor_eq_true_and_iff]
  refine ⟨w, huw, Frame.ext_cell fun row _ col _ => ?_, hvf, ?_, fun hclear => ?_⟩
  · rw [cell_of_exec_drw huw, hover, hcell, Bool.xor_assoc, Bool.xor_self, Bool.xor_false]
  · rw [(vf_of_exec_drw huw).1, (vf_of_exec_drw huw).2]
    exact (em _).symm
  · rw [hvf, ← State.exists_spriteOver_iff s x y, hclear]
    simp only [Frame.cell_clear, and_true]

theorem outputs_mem_footprint_iff {i : Instr} {s : State} : .outputs ∈ footprint s i ↔
    i = .cls ∨ (∃ x y n, i = .drw x y n) ∨ ∃ x, i = .ldStVx x ∧ s.st = 0x00#8 ∧ s.getV x ≠ 0x00#8 := by
  cases i <;> simp [footprint, postIndexParts, Part.mem_ite]

/-- Settles O35: of the instructions whose footprint has the outputs, each emits one event; every other emits none. -/
theorem outputEventsOfInstructions : Obligations.OutputEventsOfInstructions := by
  intro i s t h
  have hnone : .outputs ∉ footprint s i → t.outputs = s.outputs := (exec_writesOnly h).unchanged .outputs
  cases i
  case cls | drw => cases h; rfl
  case ldStVx x =>
    obtain ⟨hb, rfl⟩ | ⟨hb, rfl⟩ := exec_ldStVx_next h
    · simp only [if_pos hb]; rfl
    · simp only [if_neg hb, List.append_nil]
  all_goals
    rw [hnone (by simp [outputs_mem_footprint_iff])]
    exact (List.append_nil _).symm

end Sys2Proof.Machine

/-! SUPPORT. The keypad and the timers (45_keypad_timers.md): the key a register names, the address of the instruction that waits,
and the next state of Fx0A by what is pressed. -/

namespace Sys2Proof.Machine

section
variable {s : State} {x : RegIx}

/-- The low nibble of a register is its value modulo 16 (R200). -/
theorem State.keyIndex_toNat (s : State) (x : RegIx) : (s.keyIndex x).toNat = (s.getV x).toNat % 16 := rfl

theorem State.keyDown_keyIndex (s : State) (x : RegIx) :
    s.keyDown (s.keyIndex x) = s.key[(s.getV x).toNat % 16]'(Nat.mod_lt _ (by decide)) := by
  simp only [State.keyDown, State.keyIndex_toNat]

/-- Back by 2 is ahead by 0xFFE: 4096 divides the size of a word, so the difference may wrap there (R203). -/
theorem wrap12_sub_two_toNat (a : Word) : (wrap12 (a - 2#16)).toNat = (a.toNat + 0xFFE) % 0x1000 := by
  rw [wrap12_toNat, BitVec.toNat_sub, BitVec.toNat_ofNat]
  omega

theorem exec_ldVxK_of_some {k : Fin 16} (h : s.firstKey = some k) :
    exec (.ldVxK x) s = .next (s.setV x (BitVec.ofNat 8 k.val)) := by
  simp only [exec, execLdVxK, h]

theorem exec_ldVxK_of_none (h : s.firstKey = none) : exec (.ldVxK x) s = .next (s.setPc (s.pc - 2#16)) := by
  simp only [exec, execLdVxK, h]

/-- A key number fits a byte (R203). -/
theorem keyNumber_toNat (k : Fin 16) : (BitVec.ofNat 8 k.val).toNat = k.val := by
  rw [BitVec.toNat_ofNat]
  omega

end

end Sys2Proof.Machine

/-! PROOFS. The keypad and the timers (O36 to O39). -/

namespace Sys2Proof.Machine

/-- Settles O36: both are skips on the key that the low nibble of V[x] names. -/
theorem keySkips : Obligations.KeySkips := fun x s =>
  ⟨answers_of_exec_skipIf rfl (by rw [State.keyDown_keyIndex]),
    answers_of_exec_skipIf rfl (by rw [State.keyDown_keyIndex, Bool.not_eq_true'])⟩

/-- Settles O37: the key scan answers the least pressed key, and none exactly when none is pressed. -/
theorem keyWaitTakesLeastKeyOrRewinds : Obligations.KeyWaitTakesLeastKeyOrRewinds := by
  intro x s
  refine ⟨fun k hdown hleast => ?_, fun hup => ?_⟩
  · have hkey : s.firstKey = some k := (s.firstKey_eq_some k).2 ⟨hdown, hleast⟩
    exact answers_of_exec_setV (P := fun b => b.toNat = k.val) (exec_ldVxK_of_some hkey) (keyNumber_toNat k)
  · have hnone : s.firstKey = none := s.firstKey_eq_none.2 hup
    exact ⟨_, exec_ldVxK_of_none hnone, wrap12_sub_two_toNat s.pc, (writesOnly_setPc s _).unchanged⟩

/-- Settles O39: the two next states of Fx18 differ in the event alone. -/
theorem soundTimerWrite : Obligations.SoundTimerWrite := by
  intro x s
  obtain ⟨t, h⟩ := exec_answers (.ldStVx x) s
  refine ⟨t, h, ?_⟩
  obtain ⟨⟨hst, hv⟩, rfl⟩ | ⟨hno, rfl⟩ := exec_ldStVx_next h
  · exact ⟨rfl, ((writesOnly_st s _).trans (writesOnly_emit _ _)).unchanged, fun _ _ => rfl,
      fun hquiet => absurd hquiet (not_or.2 ⟨not_not.2 hst, hv⟩)⟩
  · exact ⟨rfl, (writesOnly_st s _).unchanged.mono (by simp), fun hst hv => absurd ⟨hst, hv⟩ hno, fun _ => rfl⟩

/-- Settles O38: each writes one destination, with the value of the other as it was. -/
theorem delayTimerMoves : Obligations.DelayTimerMoves := fun x s =>
  ⟨encXB_toNat_digits_first 0xF#4 x 0x07#8, encXB_toNat_digits_first 0xF#4 x 0x15#8,
    answers_of_exec_setV (P := fun b => b = s.dt) rfl rfl, _, rfl, rfl, (writesOnly_dt s _).unchanged⟩

end Sys2Proof.Machine

/-! SUPPORT. The host's events, the tick and the reset (60_exceptions.md, 70_reset_and_hazards.md): what each writes, and the value
it gives the parts it writes. -/

namespace Sys2Proof.Machine

/-! ### The event that a step takes -/

section
variable {s t u : State} {e : Event} {rest : List Event}

theorem UnchangedBut.trans {ps qs : List Part} (hst : UnchangedBut ps s t) (htu : UnchangedBut qs t u) :
    UnchangedBut (ps ++ qs) s u := by
  intro p hp
  rw [List.mem_append, not_or] at hp
  exact (hst p hp.1).trans (htu p hp.2)

theorem step_of_inputs (h : s.inputs = e :: rest) : step s = runEvent e s.takeEvent := by
  rw [step, State.nextEvent, h]
  rfl

theorem takeEvent_inputs (h : s.inputs = e :: rest) : s.takeEvent.inputs = rest := by
  rw [State.takeEvent, h]
  rfl

/-- An event that writes none of the environment's fields: the step takes it and no other, and the frame is what it writes. -/
theorem takesEvent_of_writesOnly {ps : List Part} (h : s.inputs = e :: rest) (hw : WritesOnly ps s.takeEvent t)
    (henv : .env ∉ ps) :
    t.inputs = rest ∧ t.rnd = s.rnd ∧ t.draws = s.draws ∧ UnchangedBut (ps ++ [.env]) s t := by
  obtain ⟨hrnd, hdraws, hinputs⟩ := hw.unchanged .env henv
  exact ⟨hinputs.trans (takeEvent_inputs h), hrnd, hdraws,
    ((unchangedBut_takeEvent s).trans hw.unchanged).mono (by simp)⟩

theorem WritesOnly.mono {ps qs : List Part} (h : WritesOnly ps s t) (hsub : ps ⊆ qs) : WritesOnly qs s t :=
  ⟨h.unchanged.mono hsub, fun hm => h.mem_eq fun hp => hm (hsub hp), h.inputs_eq⟩

end

/-! ### The tick (R242) -/

section
variable {s : State}

theorem timerDown_toNat (b : Byte) : (timerDown b).toNat = b.toNat - 1 := by
  unfold timerDown
  split
  case isTrue h => rw [h]; rfl
  case isFalse h => bv_omega

/-- The output of a tick: beep-end when ST is 1 (R242). -/
def tickOutputs (st : Byte) : List Output := if st = 0x01#8 then [.beepEnd] else []

theorem tick_of_running (h : s.execState = .running) :
    s.tick = { s with dt := timerDown s.dt, st := timerDown s.st, outputs := s.outputs ++ tickOutputs s.st } := by
  rw [State.tick, if_pos h, tickOutputs]
  split
  · rfl
  · rw [List.append_nil]

theorem tick_of_not_running (h : s.execState ≠ .running) : s.tick = s := if_neg h

theorem writesOnly_tick (s : State) : WritesOnly [.dt, .st, .outputs] s s.tick := by
  by_cases h : s.execState = .running
  · rw [tick_of_running h]
    exact ⟨fun p hp => by cases p <;> simp_all [Part.Same, State.readByte, State.getV], fun _ => rfl, rfl⟩
  · rw [tick_of_not_running h]
    exact (writesOnly_nil s).mono (List.nil_subset _)

theorem tick_execState (s : State) : s.tick.execState = s.execState := (writesOnly_tick s).unchanged .execState (by decide)

theorem iterate_tick_execState (s : State) (n : Nat) : (State.tick^[n] s).execState = s.execState := by
  induction n with
  | zero => rfl
  | succ n ih => rw [Function.iterate_succ_apply', tick_execState, ih]

/-! ### The controller's commands, the keys and the throttle (R229, R246, R251) -/

theorem writesOnly_execState_if (s : State) (c : Prop) [Decidable c] (e : ExecState) :
    WritesOnly [.execState] s (if c then { s with execState := e } else s) := by
  split
  · exact ⟨fun p hp => by cases p <;> simp_all [Part.Same, State.readByte, State.getV], fun _ => rfl, rfl⟩
  · exact (writesOnly_nil s).mono (List.nil_subset _)

/-- The commands that move EXEC and do nothing else, which is all of them but Stop (R229). -/
def controllerCommands : List Event := [.start, .pause, .resume, .step]

/-- EXEC after a command of the controller, by the table of R229. -/
def controllerNext (c : Event) (e : ExecState) (fault : Option FatalError) : ExecState :=
  match c, e with
  | .start, .stopped => if fault = none then .running else .stopped
  | .pause, .running => .paused
  | .resume, .paused => .running
  | .step, .paused => .stepping
  | _, e => e

/-- A command of the controller answers, moves EXEC as the table says and writes nothing else. -/
theorem runEvent_controller {c : Event} (hc : c ∈ controllerCommands) :
    ∃ t, runEvent c s = .next t ∧ t.execState = controllerNext c s.execState s.fault ∧ WritesOnly [.execState] s t := by
  simp only [controllerCommands, List.mem_cons, List.not_mem_nil, or_false] at hc
  obtain rfl | rfl | rfl | rfl := hc
  all_goals
    refine ⟨_, rfl, ?_, writesOnly_execState_if s _ _⟩
    refine (apply_ite State.execState _ _ _).trans ?_
    cases s.execState <;> simp [controllerNext]

theorem writesOnly_setKey (s : State) (k : KeyIx) (p : Bool) : WritesOnly [.key] s (s.setKey k p) :=
  ⟨fun q hq => by cases q <;> simp_all [Part.Same, State.setKey, State.readByte, State.getV], fun _ => rfl, rfl⟩

theorem keyDown_setKey (s : State) (k j : KeyIx) (p : Bool) : (s.setKey k p).keyDown j = if j = k then p else s.keyDown j := by
  simp only [State.keyDown, State.setKey, Vector.getElem_set, BitVec.toNat_inj, eq_comm]

/-! ### Reset and LoadRom (R280, R254) -/

theorem unchangedBut_resetCore (s : State) : UnchangedBut [.env, .outputs] (State.resetWith s.cfg) s.resetCore := by
  intro p hp
  cases p
  case env | outputs => simp at hp
  case mem | v => exact fun _ => rfl
  all_goals rfl

/-- Copying a ROM and recording Ok (R254). -/
theorem writesOnly_copyRom (s : State) (bytes : List Byte) :
    WritesOnly [.mem, .outputs] s ((s.writeBytes romBase bytes).emit .loadOk) :=
  (writesOnly_writeBytes s romBase bytes).trans (writesOnly_emit _ .loadOk)

theorem loadRom_of_gt {bytes : List Byte} (h : s.execState = .stopped) (hl : 3584 < bytes.length) :
    s.loadRom bytes = .next (s.emit .romTooLarge) := by
  rw [State.loadRom, if_pos h, if_pos (show romMax < bytes.length from hl)]

theorem loadRom_of_le {bytes : List Byte} (h : s.execState = .stopped) (hl : bytes.length ≤ 3584) :
    s.loadRom bytes = .next ((s.resetCore.writeBytes romBase bytes).emit .loadOk) := by
  rw [State.loadRom, if_pos h, if_neg (show ¬ romMax < bytes.length from not_lt.2 hl)]

end

end Sys2Proof.Machine

/-! PROOFS. The tick (O40, O41), the controller (O42), Stop (O43), LoadRom (O44), the keys and the host's reads (O45), and the
latch of a fatal error (O52). -/

namespace Sys2Proof.Machine

/-! ### The tick (R242, R243) -/

/-- Settles O40: a tick is one next state while Running, and the same state otherwise. -/
theorem tickDecaysTimers : Obligations.TickDecaysTimers := by
  intro s rest h
  obtain ⟨hinputs, hrnd, hdraws, hframe⟩ := takesEvent_of_writesOnly h (writesOnly_tick s.takeEvent) (by decide)
  refine ⟨_, step_of_inputs h, hinputs, hrnd, hdraws, hframe, fun hrun => ?_, fun hnot => ?_⟩
  · rw [tick_of_running (s := s.takeEvent) hrun]
    exact ⟨timerDown_toNat s.dt, timerDown_toNat s.st, rfl⟩
  · rw [tick_of_not_running (s := s.takeEvent) hnot]
    exact ⟨rfl, rfl, rfl⟩

/-- Of two runs of ticks, the second starting where the first left ST, at most one emits beep-end. -/
theorem beepEnd_append {a n : Nat} :
    (if 1 ≤ a ∧ a ≤ n then [Output.beepEnd] else []) ++ (if a - n = 1 then [.beepEnd] else []) =
      if 1 ≤ a ∧ a ≤ n + 1 then [.beepEnd] else [] := by
  by_cases h : 1 ≤ a ∧ a ≤ n
  · rw [if_pos h, if_neg (by omega), if_pos (by omega), List.append_nil]
  · rw [if_neg h, List.nil_append]
    exact if_congr (by omega) rfl rfl

theorem tickOutputs_eq (b : Byte) : tickOutputs b = if b.toNat = 1 then [.beepEnd] else [] :=
  if_congr BitVec.toNat_inj.symm rfl rfl

/-- Settles O41, by induction on the number of ticks: none of them takes EXEC out of Running. -/
theorem ticksCountDownToZero : Obligations.TicksCountDownToZero := by
  intro s n hrun
  induction n with
  | zero =>
    refine ⟨rfl, rfl, ?_⟩
    rw [if_neg (by omega), List.append_nil]
    rfl
  | succ n ih =>
    obtain ⟨hdt, hst, hout⟩ := ih
    rw [Function.iterate_succ_apply', tick_of_running ((iterate_tick_execState s n).trans hrun)]
    refine ⟨?_, ?_, ?_⟩
    · rw [timerDown_toNat, hdt, Nat.sub_sub]
    · rw [timerDown_toNat, hst, Nat.sub_sub]
    · rw [tickOutputs_eq, hst, hout, List.append_assoc, beepEnd_append]

/-! ### The controller (R229 to R234) -/

/-- Settles O42: `controllerNext` is the table. -/
theorem controllerTable : Obligations.ControllerTable := by
  intro s c rest h hc
  obtain ⟨t, ht, hexec, hw⟩ := runEvent_controller (s := s.takeEvent) hc
  obtain ⟨hinputs, hrnd, hdraws, hframe⟩ := takesEvent_of_writesOnly h hw (by decide)
  exact ⟨t, (step_of_inputs h).trans ht, hexec, hinputs, hrnd, hdraws, hframe⟩

/-- Settles O43: Stop is the reset of the state with the event taken. -/
theorem stopResets : Obligations.StopResets := fun s _ h =>
  ⟨_, step_of_inputs h, (unchangedBut_resetCore s.takeEvent).mono (by simp), rfl, rfl, rfl, takeEvent_inputs h, rfl, rfl⟩

/-- Settles O44: the bytes go to consecutive addresses of the memory at reset, which has the canonical form. -/
theorem loadRomLoads : Obligations.LoadRomLoads := by
  intro s bytes rest h
  have hstep : step s = s.takeEvent.loadRom bytes := step_of_inputs h
  refine ⟨fun hex => ?_, fun hex hl => ?_, fun hex hl => ?_⟩
  · exact hstep.trans (loadRom_refused (s := s.takeEvent) hex bytes)
  · exact ⟨_, hstep.trans (loadRom_of_gt (s := s.takeEvent) hex hl), rfl,
      takesEvent_of_writesOnly h (writesOnly_emit _ _) (by decide)⟩
  · have hw := writesOnly_copyRom s.takeEvent.resetCore bytes
    obtain ⟨hrnd, hdraws, hinputs⟩ := hw.unchanged .env (by decide)
    refine ⟨_, hstep.trans (loadRom_of_le (s := s.takeEvent) hex hl), fun k hk => ?_, ?_, ?_,
      hw.unchanged .cfg (by decide), ?_, hinputs.trans (takeEvent_inputs h), hrnd, hdraws⟩
    · exact State.readByte_writeBytes _ romBase bytes (by omega) (Memory.wf_resetWith s.cfg) k hk
    · exact memUnchangedOutside_writeBytes (s := s.takeEvent.resetCore) rfl
    · exact ((unchangedBut_resetCore s.takeEvent).trans hw.unchanged).mono (by simp)
    · rw [State.emit_outputs, State.writeBytes_outputs]
      rfl

/-! ### The keys and the host's reads (R246, R252, R258) -/

/-- Settles O45: SetKey writes the keys, and a read writes nothing. -/
theorem setKeySetsOneKey : Obligations.SetKeySetsOneKey := fun s _ =>
  ⟨fun k p h => ⟨_, step_of_inputs h, fun j => keyDown_setKey s.takeEvent k j p,
      takesEvent_of_writesOnly h (writesOnly_setKey s.takeEvent k p) (by decide)⟩,
    fun h => ⟨_, step_of_inputs h, takesEvent_of_writesOnly h (writesOnly_nil s.takeEvent) (by decide)⟩⟩

/-! ### The latch of a fatal error (R226, R230) -/

/-- In a faulted state of EXEC Stopped no instruction is enabled and the controller's table keeps Stopped, so that only the two
events that reset clear FAULT or leave Stopped. -/
theorem runEvent_of_faulted {e : Event} {s t : State} (hf : s.fault ≠ none) (hex : s.execState = .stopped)
    (h : runEvent e s = .next t) :
    (t.fault = s.fault ∧ t.execState = .stopped) ∨ e = .stop ∨ ∃ bytes, e = .loadRom bytes := by
  have hcontroller (hc : e ∈ controllerCommands) : t.fault = s.fault ∧ t.execState = .stopped := by
    obtain ⟨u, hu, hexec, hw⟩ := runEvent_controller (s := s) hc
    cases hu.symm.trans h
    refine ⟨hw.unchanged .fault (by decide), ?_⟩
    rw [hexec, hex]
    cases e <;> simp [controllerNext, hf]
  cases e
  case stop => exact .inr (.inl rfl)
  case loadRom bytes => exact .inr (.inr ⟨bytes, rfl⟩)
  case instr =>
    have hen : ¬ s.enabled = true := fun hen => hf (s.enabled_iff.1 hen).2
    cases (instructionStep_disabled hen).symm.trans h
    exact .inl ⟨rfl, hex⟩
  case tick =>
    cases h
    rw [tick_of_not_running (by simp [hex])]
    exact .inl ⟨rfl, hex⟩
  case start | pause | resume | step => exact .inl (hcontroller (by decide))
  case setKey | setThrottle | read => cases h; exact .inl ⟨rfl, hex⟩

/-- Settles O52: taking the event changes neither FAULT nor EXEC. -/
theorem faultStaysUntilReset : Obligations.FaultStaysUntilReset := fun s _ hf hex h =>
  runEvent_of_faulted (s := s.takeEvent) hf hex h

end Sys2Proof.Machine

/-! PROOFS. The infinite behaviours of R240: one follows any choice of enabled events (O59), and in a fair one the timers run out
(O60). -/

namespace Sys2Proof.Machine

/-! ### The behaviour that follows an environment -/

section
variable {s : State} {e : Event}

/-- The state after the environment's turn and the machine's step; the same state where the step answers none. -/
def State.afterTurn (s : State) (e : Event) (r : Byte) : State :=
  match step (s.offer e r) with
  | .next t => t
  | .fault _ | .refused _ => s

/-- An enabled event is not refused: LoadRom is enabled only while Stopped (R254). -/
theorem step_offer_of_enabledIn (h : e.EnabledIn s) (r : Byte) : step (s.offer e r) = .next (s.afterTurn e r) := by
  obtain ⟨t, ht⟩ | ⟨bytes, rfl, hex, -⟩ := runEvent_answers_or_refused e (s.offer e r).takeEvent
  · have hstep : step (s.offer e r) = .next t := ht
    rw [State.afterTurn, hstep]
  · exact absurd h hex

end

/-- The states of a run from `s` in which the environment's turn at each boundary is `pick`. -/
def followStates (pick : Nat → State → Event × Byte) (s : State) : Nat → State
  | 0 => s
  | n + 1 =>
    let t := followStates pick s n
    t.afterTurn (pick n t).1 (pick n t).2

/-- The run from `s` in which the environment's turn at each boundary is `pick`. -/
def Behaviour.follow (pick : Nat → State → Event × Byte) (s : State) : Behaviour where
  state := followStates pick s
  event n := (pick n (followStates pick s n)).1
  draw n := (pick n (followStates pick s n)).2

/-- Settles O59: the states of the run are made one from the other, each by the turn picked there. -/
theorem everyInterleavingIsABehaviour : Obligations.EveryInterleavingIsABehaviour := fun s pick henabled =>
  ⟨.follow pick s, fun n => ⟨henabled n _, step_offer_of_enabledIn (henabled n _) _⟩, rfl, fun _ => rfl⟩

/-! ### The ticks left until both timers are 0 -/

section
variable {s t : State}

/-- How many ticks take both timers to 0 (R243). -/
def State.ticksLeft (s : State) : Nat := max s.dt.toNat s.st.toNat

theorem ticksLeft_eq_zero_iff : s.ticksLeft = 0 ↔ s.dt = 0x00#8 ∧ s.st = 0x00#8 := by
  rw [State.ticksLeft, Nat.max_eq_zero_iff, ← BitVec.toNat_inj, ← BitVec.toNat_inj]
  rfl

theorem ticksLeft_tick (h : s.execState = .running) : s.tick.ticksLeft = s.ticksLeft - 1 := by
  rw [tick_of_running h, State.ticksLeft, State.ticksLeft, timerDown_toNat, timerDown_toNat]
  omega

theorem ticksLeft_tick_le : s.tick.ticksLeft ≤ s.ticksLeft := by
  by_cases h : s.execState = .running
  · rw [ticksLeft_tick h]
    exact Nat.sub_le _ _
  · rw [tick_of_not_running h]

theorem WritesOnly.ticksLeft_eq {ps : List Part} (h : WritesOnly ps s t) (hdt : .dt ∉ ps) (hst : .st ∉ ps) :
    t.ticksLeft = s.ticksLeft := by
  have hdt' : t.dt = s.dt := h.unchanged .dt hdt
  have hst' : t.st = s.st := h.unchanged .st hst
  rw [State.ticksLeft, State.ticksLeft, hdt', hst']

theorem ticksLeft_complete : s.complete.ticksLeft = s.ticksLeft := by
  rw [State.ticksLeft, State.ticksLeft, State.complete_dt, State.complete_st]

/-- The fetched word is neither Fx15 nor Fx18, the instructions that write a timer (R205, R206). -/
def State.FetchesNoTimerWrite (s : State) : Prop :=
  ∀ x : RegIx, decodeWord s.fetchWord ≠ .ok (.ldDtVx x) ∧ decodeWord s.fetchWord ≠ .ok (.ldStVx x)

theorem instructionStep_ticksLeft (hw : s.FetchesNoTimerWrite) (h : instructionStep s = .next t) :
    t.ticksLeft = s.ticksLeft := by
  obtain rfl | ⟨i, u, hd, hu, rfl⟩ | rfl := instructionStep_next h
  · rfl
  · have hdt : .dt ∉ footprint s.fetch i := fun hm => by
      obtain ⟨x, rfl⟩ := dt_mem_footprint_iff.1 hm
      exact (hw x).1 hd
    have hst : .st ∉ footprint s.fetch i := fun hm => by
      obtain ⟨x, rfl⟩ := st_mem_footprint_iff.1 hm
      exact (hw x).2 hd
    exact ticksLeft_complete.trans ((exec_writesOnly hu).ticksLeft_eq hdt hst)
  · exact ticksLeft_complete

theorem ticksLeft_resetCore : s.resetCore.ticksLeft = 0 := rfl

theorem loadRom_ticksLeft_le {bytes : List Byte} (h : s.loadRom bytes = .next t) : t.ticksLeft ≤ s.ticksLeft := by
  obtain rfl | rfl := loadRom_next h
  · exact le_rfl
  · rw [(writesOnly_copyRom s.resetCore bytes).ticksLeft_eq (by decide) (by decide), ticksLeft_resetCore]
    exact Nat.zero_le _

/-- No event but the execution of an Fx15 or an Fx18 lengthens the ticks left. -/
theorem runEvent_ticksLeft_le {e : Event} (hw : e = .instr → s.FetchesNoTimerWrite) (h : runEvent e s = .next t) :
    t.ticksLeft ≤ s.ticksLeft := by
  have hcontroller (hc : e ∈ controllerCommands) : t.ticksLeft ≤ s.ticksLeft := by
    obtain ⟨u, hu, -, hwrites⟩ := runEvent_controller (s := s) hc
    cases hu.symm.trans h
    exact (hwrites.ticksLeft_eq (by decide) (by decide)).le
  cases e
  case instr => exact (instructionStep_ticksLeft (hw rfl) h).le
  case tick => cases h; exact ticksLeft_tick_le
  case start | pause | resume | step => exact hcontroller (by decide)
  case stop => cases h; exact Nat.zero_le _
  case loadRom => exact loadRom_ticksLeft_le h
  case setKey | setThrottle | read => cases h; exact le_rfl

end

/-! ### Fair behaviours -/

section
variable {b : Behaviour} {n : Nat}

theorem Behaviour.Admitted.ticksLeft_le (h : b.Admitted) (hw : b.event n = .instr → (b.state n).FetchesNoTimerWrite) :
    (b.state (n + 1)).ticksLeft ≤ (b.state n).ticksLeft :=
  runEvent_ticksLeft_le (s := ((b.state n).offer (b.event n) (b.draw n)).takeEvent) hw (h.runEvent_eq n)

theorem Behaviour.Admitted.ticksLeft_of_tick (h : b.Admitted) (he : b.event n = .tick)
    (hrun : (b.state n).execState = .running) : (b.state (n + 1)).ticksLeft = (b.state n).ticksLeft - 1 := by
  have hstep := h.runEvent_eq n
  rw [he] at hstep
  rw [← Host.Outcome.next.inj hstep]
  exact ticksLeft_tick (s := ((b.state n).offer .tick (b.draw n)).takeEvent) hrun

end

/-- A number that never grows from `m` on, and loses 1 again and again unless it is 0, is 0 in the end: its least value is one
that the next loss cannot lower. -/
theorem exists_forall_eq_zero_of_antitone {f : Nat → Nat} {m : Nat} (hle : ∀ n ≥ m, f (n + 1) ≤ f n)
    (hloss : ∀ k, ∃ n, k ≤ n ∧ f (n + 1) = f n - 1) : ∃ k, m ≤ k ∧ ∀ n, k ≤ n → f n = 0 := by
  have hanti : AntitoneOn f {n | m ≤ n} := antitoneOn_nat_Ici_of_succ_le hle
  obtain ⟨k, hmk, hmin⟩ := (measure f).wf.has_min {n | m ≤ n} ⟨m, le_refl m⟩
  have hfk (n : Nat) (hkn : k ≤ n) : f n ≤ f k := hanti hmk (le_trans hmk hkn) hkn
  obtain ⟨n, hkn, hn⟩ := hloss k
  have hge : ¬ f (n + 1) < f k := hmin (n + 1) (le_trans hmk (Nat.le_succ_of_le hkn))
  have hzero : f k = 0 := by
    have := hfk n hkn
    omega
  exact ⟨k, hmk, fun j hkj => Nat.le_zero.1 (hzero ▸ hfk j hkj)⟩

/-- Settles O60: the ticks left never grow, and each of the infinitely many ticks takes one off. -/
theorem fairBehaviourRunsTimersOut : Obligations.FairBehaviourRunsTimersOut := by
  intro b m hadm hfair hrun hwrite
  have hle (n : Nat) (hn : n ≥ m) : (b.state (n + 1)).ticksLeft ≤ (b.state n).ticksLeft := hadm.ticksLeft_le (hwrite n hn)
  have hloss (k : Nat) : ∃ n, k ≤ n ∧ (b.state (n + 1)).ticksLeft = (b.state n).ticksLeft - 1 := by
    obtain ⟨-, hticks⟩ := hfair m hrun
    obtain ⟨n, hn, htick⟩ := hticks (max k m)
    exact ⟨n, le_of_max_le_left hn, hadm.ticksLeft_of_tick htick (hrun n (le_of_max_le_right hn))⟩
  obtain ⟨k, hmk, hk⟩ := exists_forall_eq_zero_of_antitone (f := fun n => (b.state n).ticksLeft) hle hloss
  exact ⟨k, hmk, fun n hn => ticksLeft_eq_zero_iff.1 (hk n hn)⟩

end Sys2Proof.Machine

/-! SUPPORT. What the accessors answer in the state after reset (R280): its parts are the empty memory and constant vectors. -/

namespace Sys2Proof.Machine

theorem wrap12_ofNat_toNat {a : Nat} (h : a < 0x1000) : (wrap12 (BitVec.ofNat 16 a)).toNat = a := by
  rw [wrap12_toNat, BitVec.toNat_ofNat]
  omega

variable (cfg : Config)

/-- No byte is listed after reset, so that each reads as FONT or 0 (R31). -/
theorem readByte_resetWith (a : Word) :
    (State.resetWith cfg).readByte a = Memory.unlisted cfg.font (wrap12 a).toNat := rfl

theorem getV_resetWith (r : RegIx) : (State.resetWith cfg).getV r = 0x00#8 := Vector.getElem_replicate r.isLt

theorem stack_resetWith (k : Fin 16) : (State.resetWith cfg).stack[k] = 0x0000#16 := Vector.getElem_replicate k.isLt

theorem keyDown_resetWith (k : KeyIx) : (State.resetWith cfg).keyDown k = false := Vector.getElem_replicate k.isLt

theorem fb_resetWith : (State.resetWith cfg).fb = Frame.clear := rfl

end Sys2Proof.Machine

/-! PROOFS. The state after reset (O47). -/

namespace Sys2Proof.Machine

/-- Settles O47: memory, the vectors and the framebuffer by the rules above; every other part is a field of the reset state. -/
theorem resetValues : Obligations.ResetValues := by
  intro cfg
  refine ⟨fun a ha => ?_, getV_resetWith cfg, rfl, rfl, stack_resetWith cfg, rfl, rfl, rfl, keyDown_resetWith cfg,
    fun row _ col _ => ?_, rfl, rfl, rfl, rfl⟩
  · rw [readByte_resetWith, wrap12_ofNat_toNat ha]
    rfl
  · rw [fb_resetWith, Frame.cell_clear]

end Sys2Proof.Machine
